-- ==== Sys2Proof/Word.lean ====
section
/-! DEFINITION. The two word types of the core: a byte (every register but PC, every bus datum) and a 16-bit
address (PC, every bus address). 00_scope R7. Their arithmetic is BitVec's, which wraps as u8 and u16 do (R10). -/

namespace Sys2Proof

/-- A bus datum or an 8-bit register (00_scope R7: "data width 8 bits"). -/
abbrev Byte := BitVec 8

/-- A bus address or the program counter (00_scope R7: every address "wrapped mod 65536"). -/
abbrev Addr := BitVec 16

end Sys2Proof
end

