-- ==== Sys2Proof/Machine/Bits.lean ====
section
/-! DEFINITION. Byte and word helpers of 00_scope R9 and R10: zext_16, sext_16, hi, lo and the concatenation of two bytes. -/

namespace Sys2Proof

/-- zext_16 (00_scope R10). -/
def zext16 (b : Byte) : Addr := b.zeroExtend 16

/-- sext_16: the 16-bit two's-complement extension (00_scope R10). -/
def sext16 (b : Byte) : Addr := b.signExtend 16

/-- hi(w) = w[15:8] (00_scope R10). -/
def hiByte (w : Addr) : Byte := w.extractLsb' 8 8

/-- lo(w) = w[7:0] (00_scope R10). -/
def loByte (w : Addr) : Byte := w.extractLsb' 0 8

/-- The word with high byte h and low byte l (00_scope R9). -/
def wordOf (h l : Byte) : Addr := h ++ l

end Sys2Proof
end

