-- ==== Sys2Proof/Syntax.lean ====
section
/-! DEFINITION. The instruction set as syntax: the 13 addressing modes, the 56 mnemonics, an operand (a mode with the
bytes it takes from the instruction stream), and Instr, one constructor for each of the 151 rows of
spec/opcode_table.json (30_encoding R109, R110). -/

namespace Sys2Proof

/-- The addressing modes (30_encoding R101, 40_step_and_addressing R134 to R146). -/
inductive Mode where
  /-- R134: no operand -/
  | implied
  /-- R135: register A -/
  | accumulator
  /-- R136 -/
  | immediate
  /-- R137 -/
  | zeroPage
  /-- R138 -/
  | zeroPageX
  /-- R139 -/
  | zeroPageY
  /-- R140 -/
  | relative
  /-- R141 -/
  | absolute
  /-- R142 -/
  | absoluteX
  /-- R143 -/
  | absoluteY
  /-- R144 -/
  | indirect
  /-- R145: (zp,X) -/
  | indexedIndirect
  /-- R146: (zp),Y -/
  | indirectIndexed
deriving DecidableEq, Repr

/-- The mnemonics (30_encoding R110). -/
inductive Mnemonic where
  | cmp | cpx | cpy | adc | sbc | and | ora | eor | bit | lda | ldx | ldy | sta | stx | sty
  | tax | tay | txa | tya | tsx | txs | inc | dec | inx | iny | dex | dey | asl | lsr | rol
  | ror | pha | php | pla | plp | jmp | jsr | rts | rti | bcc | bcs | beq | bne | bmi | bpl
  | bvc | bvs | clc | sec | cld | sed | cli | sei | clv | nop | brk
deriving DecidableEq, Repr

/-- An addressing mode with its operand bytes, a 16-bit one already assembled (30_encoding R103 to R106). -/
inductive Operand where
  | implied
  | accumulator
  | immediate (v : Byte)
  | zeroPage (z : Byte)
  | zeroPageX (z : Byte)
  | zeroPageY (z : Byte)
  | relative (d : Byte)
  | absolute (a : Addr)
  | absoluteX (a : Addr)
  | absoluteY (a : Addr)
  | indirect (p : Addr)
  | indexedIndirect (z : Byte)
  | indirectIndexed (z : Byte)
deriving DecidableEq, Repr

/-- The mode of an operand. -/
def Operand.mode : Operand → Mode
  | .implied => .implied
  | .accumulator => .accumulator
  | .immediate _ => .immediate
  | .zeroPage _ => .zeroPage
  | .zeroPageX _ => .zeroPageX
  | .zeroPageY _ => .zeroPageY
  | .relative _ => .relative
  | .absolute _ => .absolute
  | .absoluteX _ => .absoluteX
  | .absoluteY _ => .absoluteY
  | .indirect _ => .indirect
  | .indexedIndirect _ => .indexedIndirect
  | .indirectIndexed _ => .indirectIndexed

/-- The instructions. A constructor's docstring gives its row: opcode byte and assembler form (30_encoding R110, R115).
An operand byte or address is the constructor's argument. -/
inductive Instr where
  -- Compare and add/subtract (41_compare_arith.md)
  /-- 0xC9 CMP #$nn (R200) -/
  | cmpImm (v : Byte)
  /-- 0xC5 CMP $nn (R200) -/
  | cmpZp (z : Byte)
  /-- 0xD5 CMP $nn,X (R200) -/
  | cmpZpx (z : Byte)
  /-- 0xCD CMP $nnnn (R200) -/
  | cmpAbs (a : Addr)
  /-- 0xDD CMP $nnnn,X (R200) -/
  | cmpAbsx (a : Addr)
  /-- 0xD9 CMP $nnnn,Y (R200) -/
  | cmpAbsy (a : Addr)
  /-- 0xC1 CMP ($nn,X) (R200) -/
  | cmpIzx (z : Byte)
  /-- 0xD1 CMP ($nn),Y (R200) -/
  | cmpIzy (z : Byte)
  /-- 0xE0 CPX #$nn (R201) -/
  | cpxImm (v : Byte)
  /-- 0xE4 CPX $nn (R201) -/
  | cpxZp (z : Byte)
  /-- 0xEC CPX $nnnn (R201) -/
  | cpxAbs (a : Addr)
  /-- 0xC0 CPY #$nn (R202) -/
  | cpyImm (v : Byte)
  /-- 0xC4 CPY $nn (R202) -/
  | cpyZp (z : Byte)
  /-- 0xCC CPY $nnnn (R202) -/
  | cpyAbs (a : Addr)
  /-- 0x69 ADC #$nn (R203) -/
  | adcImm (v : Byte)
  /-- 0x65 ADC $nn (R203) -/
  | adcZp (z : Byte)
  /-- 0x75 ADC $nn,X (R203) -/
  | adcZpx (z : Byte)
  /-- 0x6D ADC $nnnn (R203) -/
  | adcAbs (a : Addr)
  /-- 0x7D ADC $nnnn,X (R203) -/
  | adcAbsx (a : Addr)
  /-- 0x79 ADC $nnnn,Y (R203) -/
  | adcAbsy (a : Addr)
  /-- 0x61 ADC ($nn,X) (R203) -/
  | adcIzx (z : Byte)
  /-- 0x71 ADC ($nn),Y (R203) -/
  | adcIzy (z : Byte)
  /-- 0xE9 SBC #$nn (R204) -/
  | sbcImm (v : Byte)
  /-- 0xE5 SBC $nn (R204) -/
  | sbcZp (z : Byte)
  /-- 0xF5 SBC $nn,X (R204) -/
  | sbcZpx (z : Byte)
  /-- 0xED SBC $nnnn (R204) -/
  | sbcAbs (a : Addr)
  /-- 0xFD SBC $nnnn,X (R204) -/
  | sbcAbsx (a : Addr)
  /-- 0xF9 SBC $nnnn,Y (R204) -/
  | sbcAbsy (a : Addr)
  /-- 0xE1 SBC ($nn,X) (R204) -/
  | sbcIzx (z : Byte)
  /-- 0xF1 SBC ($nn),Y (R204) -/
  | sbcIzy (z : Byte)
  -- Logical and BIT (42_logical_bit.md)
  /-- 0x29 AND #$nn (R230) -/
  | andImm (v : Byte)
  /-- 0x25 AND $nn (R230) -/
  | andZp (z : Byte)
  /-- 0x35 AND $nn,X (R230) -/
  | andZpx (z : Byte)
  /-- 0x2D AND $nnnn (R230) -/
  | andAbs (a : Addr)
  /-- 0x3D AND $nnnn,X (R230) -/
  | andAbsx (a : Addr)
  /-- 0x39 AND $nnnn,Y (R230) -/
  | andAbsy (a : Addr)
  /-- 0x21 AND ($nn,X) (R230) -/
  | andIzx (z : Byte)
  /-- 0x31 AND ($nn),Y (R230) -/
  | andIzy (z : Byte)
  /-- 0x09 ORA #$nn (R231) -/
  | oraImm (v : Byte)
  /-- 0x05 ORA $nn (R231) -/
  | oraZp (z : Byte)
  /-- 0x15 ORA $nn,X (R231) -/
  | oraZpx (z : Byte)
  /-- 0x0D ORA $nnnn (R231) -/
  | oraAbs (a : Addr)
  /-- 0x1D ORA $nnnn,X (R231) -/
  | oraAbsx (a : Addr)
  /-- 0x19 ORA $nnnn,Y (R231) -/
  | oraAbsy (a : Addr)
  /-- 0x01 ORA ($nn,X) (R231) -/
  | oraIzx (z : Byte)
  /-- 0x11 ORA ($nn),Y (R231) -/
  | oraIzy (z : Byte)
  /-- 0x49 EOR #$nn (R232) -/
  | eorImm (v : Byte)
  /-- 0x45 EOR $nn (R232) -/
  | eorZp (z : Byte)
  /-- 0x55 EOR $nn,X (R232) -/
  | eorZpx (z : Byte)
  /-- 0x4D EOR $nnnn (R232) -/
  | eorAbs (a : Addr)
  /-- 0x5D EOR $nnnn,X (R232) -/
  | eorAbsx (a : Addr)
  /-- 0x59 EOR $nnnn,Y (R232) -/
  | eorAbsy (a : Addr)
  /-- 0x41 EOR ($nn,X) (R232) -/
  | eorIzx (z : Byte)
  /-- 0x51 EOR ($nn),Y (R232) -/
  | eorIzy (z : Byte)
  /-- 0x24 BIT $nn (R233) -/
  | bitZp (z : Byte)
  /-- 0x2C BIT $nnnn (R233) -/
  | bitAbs (a : Addr)
  -- Load, store and transfer (43_load_store_transfer.md)
  /-- 0xA9 LDA #$nn (R250) -/
  | ldaImm (v : Byte)
  /-- 0xA5 LDA $nn (R250) -/
  | ldaZp (z : Byte)
  /-- 0xB5 LDA $nn,X (R250) -/
  | ldaZpx (z : Byte)
  /-- 0xAD LDA $nnnn (R250) -/
  | ldaAbs (a : Addr)
  /-- 0xBD LDA $nnnn,X (R250) -/
  | ldaAbsx (a : Addr)
  /-- 0xB9 LDA $nnnn,Y (R250) -/
  | ldaAbsy (a : Addr)
  /-- 0xA1 LDA ($nn,X) (R250) -/
  | ldaIzx (z : Byte)
  /-- 0xB1 LDA ($nn),Y (R250) -/
  | ldaIzy (z : Byte)
  /-- 0xA2 LDX #$nn (R251) -/
  | ldxImm (v : Byte)
  /-- 0xA6 LDX $nn (R251) -/
  | ldxZp (z : Byte)
  /-- 0xB6 LDX $nn,Y (R251) -/
  | ldxZpy (z : Byte)
  /-- 0xAE LDX $nnnn (R251) -/
  | ldxAbs (a : Addr)
  /-- 0xBE LDX $nnnn,Y (R251) -/
  | ldxAbsy (a : Addr)
  /-- 0xA0 LDY #$nn (R252) -/
  | ldyImm (v : Byte)
  /-- 0xA4 LDY $nn (R252) -/
  | ldyZp (z : Byte)
  /-- 0xB4 LDY $nn,X (R252) -/
  | ldyZpx (z : Byte)
  /-- 0xAC LDY $nnnn (R252) -/
  | ldyAbs (a : Addr)
  /-- 0xBC LDY $nnnn,X (R252) -/
  | ldyAbsx (a : Addr)
  /-- 0x85 STA $nn (R253) -/
  | staZp (z : Byte)
  /-- 0x95 STA $nn,X (R253) -/
  | staZpx (z : Byte)
  /-- 0x8D STA $nnnn (R253) -/
  | staAbs (a : Addr)
  /-- 0x9D STA $nnnn,X (R253) -/
  | staAbsx (a : Addr)
  /-- 0x99 STA $nnnn,Y (R253) -/
  | staAbsy (a : Addr)
  /-- 0x81 STA ($nn,X) (R253) -/
  | staIzx (z : Byte)
  /-- 0x91 STA ($nn),Y (R253) -/
  | staIzy (z : Byte)
  /-- 0x86 STX $nn (R254) -/
  | stxZp (z : Byte)
  /-- 0x96 STX $nn,Y (R254) -/
  | stxZpy (z : Byte)
  /-- 0x8E STX $nnnn (R254) -/
  | stxAbs (a : Addr)
  /-- 0x84 STY $nn (R255) -/
  | styZp (z : Byte)
  /-- 0x94 STY $nn,X (R255) -/
  | styZpx (z : Byte)
  /-- 0x8C STY $nnnn (R255) -/
  | styAbs (a : Addr)
  /-- 0xAA TAX (R256) -/
  | tax
  /-- 0xA8 TAY (R257) -/
  | tay
  /-- 0x8A TXA (R258) -/
  | txa
  /-- 0x98 TYA (R259) -/
  | tya
  /-- 0xBA TSX (R260) -/
  | tsx
  /-- 0x9A TXS (R261) -/
  | txs
  -- Increment, decrement, shift and rotate (44_incdec_shift.md)
  /-- 0xE6 INC $nn (R280) -/
  | incZp (z : Byte)
  /-- 0xF6 INC $nn,X (R280) -/
  | incZpx (z : Byte)
  /-- 0xEE INC $nnnn (R280) -/
  | incAbs (a : Addr)
  /-- 0xFE INC $nnnn,X (R280) -/
  | incAbsx (a : Addr)
  /-- 0xC6 DEC $nn (R281) -/
  | decZp (z : Byte)
  /-- 0xD6 DEC $nn,X (R281) -/
  | decZpx (z : Byte)
  /-- 0xCE DEC $nnnn (R281) -/
  | decAbs (a : Addr)
  /-- 0xDE DEC $nnnn,X (R281) -/
  | decAbsx (a : Addr)
  /-- 0xE8 INX (R282) -/
  | inx
  /-- 0xC8 INY (R283) -/
  | iny
  /-- 0xCA DEX (R284) -/
  | dex
  /-- 0x88 DEY (R285) -/
  | dey
  /-- 0x0A ASL A (R286) -/
  | aslAcc
  /-- 0x06 ASL $nn (R286) -/
  | aslZp (z : Byte)
  /-- 0x16 ASL $nn,X (R286) -/
  | aslZpx (z : Byte)
  /-- 0x0E ASL $nnnn (R286) -/
  | aslAbs (a : Addr)
  /-- 0x1E ASL $nnnn,X (R286) -/
  | aslAbsx (a : Addr)
  /-- 0x4A LSR A (R287) -/
  | lsrAcc
  /-- 0x46 LSR $nn (R287) -/
  | lsrZp (z : Byte)
  /-- 0x56 LSR $nn,X (R287) -/
  | lsrZpx (z : Byte)
  /-- 0x4E LSR $nnnn (R287) -/
  | lsrAbs (a : Addr)
  /-- 0x5E LSR $nnnn,X (R287) -/
  | lsrAbsx (a : Addr)
  /-- 0x2A ROL A (R288) -/
  | rolAcc
  /-- 0x26 ROL $nn (R288) -/
  | rolZp (z : Byte)
  /-- 0x36 ROL $nn,X (R288) -/
  | rolZpx (z : Byte)
  /-- 0x2E ROL $nnnn (R288) -/
  | rolAbs (a : Addr)
  /-- 0x3E ROL $nnnn,X (R288) -/
  | rolAbsx (a : Addr)
  /-- 0x6A ROR A (R289) -/
  | rorAcc
  /-- 0x66 ROR $nn (R289) -/
  | rorZp (z : Byte)
  /-- 0x76 ROR $nn,X (R289) -/
  | rorZpx (z : Byte)
  /-- 0x6E ROR $nnnn (R289) -/
  | rorAbs (a : Addr)
  /-- 0x7E ROR $nnnn,X (R289) -/
  | rorAbsx (a : Addr)
  -- Stack (45_stack.md)
  /-- 0x48 PHA (R310) -/
  | pha
  /-- 0x08 PHP (R311) -/
  | php
  /-- 0x68 PLA (R312) -/
  | pla
  /-- 0x28 PLP (R313) -/
  | plp
  -- Jumps, calls, returns and branches (46_control.md)
  /-- 0x4C JMP $nnnn (R330) -/
  | jmpAbs (a : Addr)
  /-- 0x6C JMP ($nnnn) (R330) -/
  | jmpInd (p : Addr)
  /-- 0x20 JSR $nnnn (R331) -/
  | jsr (a : Addr)
  /-- 0x60 RTS (R332) -/
  | rts
  /-- 0x40 RTI (R333) -/
  | rti
  /-- 0x90 BCC label (R335) -/
  | bcc (d : Byte)
  /-- 0xB0 BCS label (R336) -/
  | bcs (d : Byte)
  /-- 0xF0 BEQ label (R337) -/
  | beq (d : Byte)
  /-- 0xD0 BNE label (R338) -/
  | bne (d : Byte)
  /-- 0x30 BMI label (R339) -/
  | bmi (d : Byte)
  /-- 0x10 BPL label (R340) -/
  | bpl (d : Byte)
  /-- 0x50 BVC label (R341) -/
  | bvc (d : Byte)
  /-- 0x70 BVS label (R342) -/
  | bvs (d : Byte)
  -- Flags, NOP and BRK (47_flags_nop_brk.md)
  /-- 0x18 CLC (R360) -/
  | clc
  /-- 0x38 SEC (R361) -/
  | sec
  /-- 0xD8 CLD (R362) -/
  | cld
  /-- 0xF8 SED (R363) -/
  | sed
  /-- 0x58 CLI (R364) -/
  | cli
  /-- 0x78 SEI (R365) -/
  | sei
  /-- 0xB8 CLV (R366) -/
  | clv
  /-- 0xEA NOP (R367) -/
  | nop
  /-- 0x00 BRK (R368) -/
  | brk
deriving DecidableEq, Repr

/-- The (mnemonic, operand) pair a constructor stands for (30_encoding R102: an opcode maps to one
(operation, mode) pair; opcode_table.json's mnemonic and mode of the row). -/
def Instr.form : Instr → Mnemonic × Operand
  | .cmpImm v => (.cmp, .immediate v)
  | .cmpZp z => (.cmp, .zeroPage z)
  | .cmpZpx z => (.cmp, .zeroPageX z)
  | .cmpAbs a => (.cmp, .absolute a)
  | .cmpAbsx a => (.cmp, .absoluteX a)
  | .cmpAbsy a => (.cmp, .absoluteY a)
  | .cmpIzx z => (.cmp, .indexedIndirect z)
  | .cmpIzy z => (.cmp, .indirectIndexed z)
  | .cpxImm v => (.cpx, .immediate v)
  | .cpxZp z => (.cpx, .zeroPage z)
  | .cpxAbs a => (.cpx, .absolute a)
  | .cpyImm v => (.cpy, .immediate v)
  | .cpyZp z => (.cpy, .zeroPage z)
  | .cpyAbs a => (.cpy, .absolute a)
  | .adcImm v => (.adc, .immediate v)
  | .adcZp z => (.adc, .zeroPage z)
  | .adcZpx z => (.adc, .zeroPageX z)
  | .adcAbs a => (.adc, .absolute a)
  | .adcAbsx a => (.adc, .absoluteX a)
  | .adcAbsy a => (.adc, .absoluteY a)
  | .adcIzx z => (.adc, .indexedIndirect z)
  | .adcIzy z => (.adc, .indirectIndexed z)
  | .sbcImm v => (.sbc, .immediate v)
  | .sbcZp z => (.sbc, .zeroPage z)
  | .sbcZpx z => (.sbc, .zeroPageX z)
  | .sbcAbs a => (.sbc, .absolute a)
  | .sbcAbsx a => (.sbc, .absoluteX a)
  | .sbcAbsy a => (.sbc, .absoluteY a)
  | .sbcIzx z => (.sbc, .indexedIndirect z)
  | .sbcIzy z => (.sbc, .indirectIndexed z)
  | .andImm v => (.and, .immediate v)
  | .andZp z => (.and, .zeroPage z)
  | .andZpx z => (.and, .zeroPageX z)
  | .andAbs a => (.and, .absolute a)
  | .andAbsx a => (.and, .absoluteX a)
  | .andAbsy a => (.and, .absoluteY a)
  | .andIzx z => (.and, .indexedIndirect z)
  | .andIzy z => (.and, .indirectIndexed z)
  | .oraImm v => (.ora, .immediate v)
  | .oraZp z => (.ora, .zeroPage z)
  | .oraZpx z => (.ora, .zeroPageX z)
  | .oraAbs a => (.ora, .absolute a)
  | .oraAbsx a => (.ora, .absoluteX a)
  | .oraAbsy a => (.ora, .absoluteY a)
  | .oraIzx z => (.ora, .indexedIndirect z)
  | .oraIzy z => (.ora, .indirectIndexed z)
  | .eorImm v => (.eor, .immediate v)
  | .eorZp z => (.eor, .zeroPage z)
  | .eorZpx z => (.eor, .zeroPageX z)
  | .eorAbs a => (.eor, .absolute a)
  | .eorAbsx a => (.eor, .absoluteX a)
  | .eorAbsy a => (.eor, .absoluteY a)
  | .eorIzx z => (.eor, .indexedIndirect z)
  | .eorIzy z => (.eor, .indirectIndexed z)
  | .bitZp z => (.bit, .zeroPage z)
  | .bitAbs a => (.bit, .absolute a)
  | .ldaImm v => (.lda, .immediate v)
  | .ldaZp z => (.lda, .zeroPage z)
  | .ldaZpx z => (.lda, .zeroPageX z)
  | .ldaAbs a => (.lda, .absolute a)
  | .ldaAbsx a => (.lda, .absoluteX a)
  | .ldaAbsy a => (.lda, .absoluteY a)
  | .ldaIzx z => (.lda, .indexedIndirect z)
  | .ldaIzy z => (.lda, .indirectIndexed z)
  | .ldxImm v => (.ldx, .immediate v)
  | .ldxZp z => (.ldx, .zeroPage z)
  | .ldxZpy z => (.ldx, .zeroPageY z)
  | .ldxAbs a => (.ldx, .absolute a)
  | .ldxAbsy a => (.ldx, .absoluteY a)
  | .ldyImm v => (.ldy, .immediate v)
  | .ldyZp z => (.ldy, .zeroPage z)
  | .ldyZpx z => (.ldy, .zeroPageX z)
  | .ldyAbs a => (.ldy, .absolute a)
  | .ldyAbsx a => (.ldy, .absoluteX a)
  | .staZp z => (.sta, .zeroPage z)
  | .staZpx z => (.sta, .zeroPageX z)
  | .staAbs a => (.sta, .absolute a)
  | .staAbsx a => (.sta, .absoluteX a)
  | .staAbsy a => (.sta, .absoluteY a)
  | .staIzx z => (.sta, .indexedIndirect z)
  | .staIzy z => (.sta, .indirectIndexed z)
  | .stxZp z => (.stx, .zeroPage z)
  | .stxZpy z => (.stx, .zeroPageY z)
  | .stxAbs a => (.stx, .absolute a)
  | .styZp z => (.sty, .zeroPage z)
  | .styZpx z => (.sty, .zeroPageX z)
  | .styAbs a => (.sty, .absolute a)
  | .tax => (.tax, .implied)
  | .tay => (.tay, .implied)
  | .txa => (.txa, .implied)
  | .tya => (.tya, .implied)
  | .tsx => (.tsx, .implied)
  | .txs => (.txs, .implied)
  | .incZp z => (.inc, .zeroPage z)
  | .incZpx z => (.inc, .zeroPageX z)
  | .incAbs a => (.inc, .absolute a)
  | .incAbsx a => (.inc, .absoluteX a)
  | .decZp z => (.dec, .zeroPage z)
  | .decZpx z => (.dec, .zeroPageX z)
  | .decAbs a => (.dec, .absolute a)
  | .decAbsx a => (.dec, .absoluteX a)
  | .inx => (.inx, .implied)
  | .iny => (.iny, .implied)
  | .dex => (.dex, .implied)
  | .dey => (.dey, .implied)
  | .aslAcc => (.asl, .accumulator)
  | .aslZp z => (.asl, .zeroPage z)
  | .aslZpx z => (.asl, .zeroPageX z)
  | .aslAbs a => (.asl, .absolute a)
  | .aslAbsx a => (.asl, .absoluteX a)
  | .lsrAcc => (.lsr, .accumulator)
  | .lsrZp z => (.lsr, .zeroPage z)
  | .lsrZpx z => (.lsr, .zeroPageX z)
  | .lsrAbs a => (.lsr, .absolute a)
  | .lsrAbsx a => (.lsr, .absoluteX a)
  | .rolAcc => (.rol, .accumulator)
  | .rolZp z => (.rol, .zeroPage z)
  | .rolZpx z => (.rol, .zeroPageX z)
  | .rolAbs a => (.rol, .absolute a)
  | .rolAbsx a => (.rol, .absoluteX a)
  | .rorAcc => (.ror, .accumulator)
  | .rorZp z => (.ror, .zeroPage z)
  | .rorZpx z => (.ror, .zeroPageX z)
  | .rorAbs a => (.ror, .absolute a)
  | .rorAbsx a => (.ror, .absoluteX a)
  | .pha => (.pha, .implied)
  | .php => (.php, .implied)
  | .pla => (.pla, .implied)
  | .plp => (.plp, .implied)
  | .jmpAbs a => (.jmp, .absolute a)
  | .jmpInd p => (.jmp, .indirect p)
  | .jsr a => (.jsr, .absolute a)
  | .rts => (.rts, .implied)
  | .rti => (.rti, .implied)
  | .bcc d => (.bcc, .relative d)
  | .bcs d => (.bcs, .relative d)
  | .beq d => (.beq, .relative d)
  | .bne d => (.bne, .relative d)
  | .bmi d => (.bmi, .relative d)
  | .bpl d => (.bpl, .relative d)
  | .bvc d => (.bvc, .relative d)
  | .bvs d => (.bvs, .relative d)
  | .clc => (.clc, .implied)
  | .sec => (.sec, .implied)
  | .cld => (.cld, .implied)
  | .sed => (.sed, .implied)
  | .cli => (.cli, .implied)
  | .sei => (.sei, .implied)
  | .clv => (.clv, .implied)
  | .nop => (.nop, .implied)
  | .brk => (.brk, .implied)

/-- The mnemonic of an instruction. -/
def Instr.mnemonic (i : Instr) : Mnemonic := i.form.1

/-- The operand of an instruction. -/
def Instr.operand (i : Instr) : Operand := i.form.2

/-- The addressing mode of an instruction. -/
def Instr.mode (i : Instr) : Mode := i.operand.mode

end Sys2Proof
end

