-- ==== Sys2Proof/WellFormed.lean ====
section
/-! DEFINITION. Which (mnemonic, addressing mode) pairs exist: the rows of 30_encoding R110. A pair outside them (a store
or a read-modify-write in immediate mode, a read through implied mode, a store through relative mode, 60_exceptions
R404) is ill-formed. Instr has a constructor for no such pair, so every Instr is well-formed (log entry 16); the check
itself is on pairs, where it can fail. -/

namespace Sys2Proof

/-- The addressing modes 30_encoding R110 gives each mnemonic. -/
def legalModes : Mnemonic → List Mode
  | .cmp => [.immediate, .zeroPage, .zeroPageX, .absolute, .absoluteX, .absoluteY, .indexedIndirect, .indirectIndexed]
  | .cpx => [.immediate, .zeroPage, .absolute]
  | .cpy => [.immediate, .zeroPage, .absolute]
  | .adc => [.immediate, .zeroPage, .zeroPageX, .absolute, .absoluteX, .absoluteY, .indexedIndirect, .indirectIndexed]
  | .sbc => [.immediate, .zeroPage, .zeroPageX, .absolute, .absoluteX, .absoluteY, .indexedIndirect, .indirectIndexed]
  | .and => [.immediate, .zeroPage, .zeroPageX, .absolute, .absoluteX, .absoluteY, .indexedIndirect, .indirectIndexed]
  | .ora => [.immediate, .zeroPage, .zeroPageX, .absolute, .absoluteX, .absoluteY, .indexedIndirect, .indirectIndexed]
  | .eor => [.immediate, .zeroPage, .zeroPageX, .absolute, .absoluteX, .absoluteY, .indexedIndirect, .indirectIndexed]
  | .bit => [.zeroPage, .absolute]
  | .lda => [.immediate, .zeroPage, .zeroPageX, .absolute, .absoluteX, .absoluteY, .indexedIndirect, .indirectIndexed]
  | .ldx => [.immediate, .zeroPage, .zeroPageY, .absolute, .absoluteY]
  | .ldy => [.immediate, .zeroPage, .zeroPageX, .absolute, .absoluteX]
  | .sta => [.zeroPage, .zeroPageX, .absolute, .absoluteX, .absoluteY, .indexedIndirect, .indirectIndexed]
  | .stx => [.zeroPage, .zeroPageY, .absolute]
  | .sty => [.zeroPage, .zeroPageX, .absolute]
  | .tax => [.implied]
  | .tay => [.implied]
  | .txa => [.implied]
  | .tya => [.implied]
  | .tsx => [.implied]
  | .txs => [.implied]
  | .inc => [.zeroPage, .zeroPageX, .absolute, .absoluteX]
  | .dec => [.zeroPage, .zeroPageX, .absolute, .absoluteX]
  | .inx => [.implied]
  | .iny => [.implied]
  | .dex => [.implied]
  | .dey => [.implied]
  | .asl => [.zeroPage, .zeroPageX, .absolute, .absoluteX, .accumulator]
  | .lsr => [.zeroPage, .zeroPageX, .absolute, .absoluteX, .accumulator]
  | .rol => [.zeroPage, .zeroPageX, .absolute, .absoluteX, .accumulator]
  | .ror => [.zeroPage, .zeroPageX, .absolute, .absoluteX, .accumulator]
  | .pha => [.implied]
  | .php => [.implied]
  | .pla => [.implied]
  | .plp => [.implied]
  | .jmp => [.absolute, .indirect]
  | .jsr => [.absolute]
  | .rts => [.implied]
  | .rti => [.implied]
  | .bcc => [.relative]
  | .bcs => [.relative]
  | .beq => [.relative]
  | .bne => [.relative]
  | .bmi => [.relative]
  | .bpl => [.relative]
  | .bvc => [.relative]
  | .bvs => [.relative]
  | .clc => [.implied]
  | .sec => [.implied]
  | .cld => [.implied]
  | .sed => [.implied]
  | .cli => [.implied]
  | .sei => [.implied]
  | .clv => [.implied]
  | .nop => [.implied]
  | .brk => [.implied]

/-- A (mnemonic, operand) pair the opcode map has a byte for (30_encoding R110; 60_exceptions R404 names pairs it has
none for). -/
def legalForm (f : Mnemonic × Operand) : Bool := (legalModes f.1).contains f.2.mode

/-- An instruction whose pair the opcode map has a byte for. -/
abbrev Instr.WellFormed (i : Instr) : Prop := legalForm i.form = true

end Sys2Proof
end

