-- ==== Sys2Proof/Decode.lean ====
section
/-! DEFINITION. The decoder (total on any bytes, rejecting by name) and the encoder. The opcode map is
30_encoding R109, one list for each row (high nibble) of the table there; operand bytes follow R100 to R107. -/

namespace Sys2Proof

/-- The number of operand bytes of a mode (30_encoding R101, "operand size"). -/
def Mode.size : Mode → Nat
  | .implied => 0
  | .accumulator => 0
  | .immediate => 1
  | .zeroPage => 1
  | .zeroPageX => 1
  | .zeroPageY => 1
  | .relative => 1
  | .absolute => 2
  | .absoluteX => 2
  | .absoluteY => 2
  | .indirect => 2
  | .indexedIndirect => 1
  | .indirectIndexed => 1

/-- What the opcode byte settles: the instruction, but for the operand bytes its mode takes (30_encoding R107). -/
inductive Template where
  /-- format F1 -/
  | op0 (i : Instr)
  /-- format F2 -/
  | op8 (f : Byte → Instr)
  /-- format F3: a little-endian address (30_encoding R106) -/
  | op16 (f : Addr → Instr)

/-- Row 0x of the opcode map (30_encoding R109). -/
def opcodeRow0 : List (Byte × Template) :=
  [(0x00, .op0 .brk), (0x01, .op8 .oraIzx), (0x05, .op8 .oraZp), (0x06, .op8 .aslZp), (0x08, .op0 .php),
   (0x09, .op8 .oraImm), (0x0A, .op0 .aslAcc), (0x0D, .op16 .oraAbs), (0x0E, .op16 .aslAbs)]

/-- Row 1x of the opcode map (30_encoding R109). -/
def opcodeRow1 : List (Byte × Template) :=
  [(0x10, .op8 .bpl), (0x11, .op8 .oraIzy), (0x15, .op8 .oraZpx), (0x16, .op8 .aslZpx), (0x18, .op0 .clc),
   (0x19, .op16 .oraAbsy), (0x1D, .op16 .oraAbsx), (0x1E, .op16 .aslAbsx)]

/-- Row 2x of the opcode map (30_encoding R109). -/
def opcodeRow2 : List (Byte × Template) :=
  [(0x20, .op16 .jsr), (0x21, .op8 .andIzx), (0x24, .op8 .bitZp), (0x25, .op8 .andZp), (0x26, .op8 .rolZp),
   (0x28, .op0 .plp), (0x29, .op8 .andImm), (0x2A, .op0 .rolAcc), (0x2C, .op16 .bitAbs), (0x2D, .op16 .andAbs),
   (0x2E, .op16 .rolAbs)]

/-- Row 3x of the opcode map (30_encoding R109). -/
def opcodeRow3 : List (Byte × Template) :=
  [(0x30, .op8 .bmi), (0x31, .op8 .andIzy), (0x35, .op8 .andZpx), (0x36, .op8 .rolZpx), (0x38, .op0 .sec),
   (0x39, .op16 .andAbsy), (0x3D, .op16 .andAbsx), (0x3E, .op16 .rolAbsx)]

/-- Row 4x of the opcode map (30_encoding R109). -/
def opcodeRow4 : List (Byte × Template) :=
  [(0x40, .op0 .rti), (0x41, .op8 .eorIzx), (0x45, .op8 .eorZp), (0x46, .op8 .lsrZp), (0x48, .op0 .pha),
   (0x49, .op8 .eorImm), (0x4A, .op0 .lsrAcc), (0x4C, .op16 .jmpAbs), (0x4D, .op16 .eorAbs),
   (0x4E, .op16 .lsrAbs)]

/-- Row 5x of the opcode map (30_encoding R109). -/
def opcodeRow5 : List (Byte × Template) :=
  [(0x50, .op8 .bvc), (0x51, .op8 .eorIzy), (0x55, .op8 .eorZpx), (0x56, .op8 .lsrZpx), (0x58, .op0 .cli),
   (0x59, .op16 .eorAbsy), (0x5D, .op16 .eorAbsx), (0x5E, .op16 .lsrAbsx)]

/-- Row 6x of the opcode map (30_encoding R109). -/
def opcodeRow6 : List (Byte × Template) :=
  [(0x60, .op0 .rts), (0x61, .op8 .adcIzx), (0x65, .op8 .adcZp), (0x66, .op8 .rorZp), (0x68, .op0 .pla),
   (0x69, .op8 .adcImm), (0x6A, .op0 .rorAcc), (0x6C, .op16 .jmpInd), (0x6D, .op16 .adcAbs),
   (0x6E, .op16 .rorAbs)]

/-- Row 7x of the opcode map (30_encoding R109). -/
def opcodeRow7 : List (Byte × Template) :=
  [(0x70, .op8 .bvs), (0x71, .op8 .adcIzy), (0x75, .op8 .adcZpx), (0x76, .op8 .rorZpx), (0x78, .op0 .sei),
   (0x79, .op16 .adcAbsy), (0x7D, .op16 .adcAbsx), (0x7E, .op16 .rorAbsx)]

/-- Row 8x of the opcode map (30_encoding R109). -/
def opcodeRow8 : List (Byte × Template) :=
  [(0x81, .op8 .staIzx), (0x84, .op8 .styZp), (0x85, .op8 .staZp), (0x86, .op8 .stxZp), (0x88, .op0 .dey),
   (0x8A, .op0 .txa), (0x8C, .op16 .styAbs), (0x8D, .op16 .staAbs), (0x8E, .op16 .stxAbs)]

/-- Row 9x of the opcode map (30_encoding R109). -/
def opcodeRow9 : List (Byte × Template) :=
  [(0x90, .op8 .bcc), (0x91, .op8 .staIzy), (0x94, .op8 .styZpx), (0x95, .op8 .staZpx), (0x96, .op8 .stxZpy),
   (0x98, .op0 .tya), (0x99, .op16 .staAbsy), (0x9A, .op0 .txs), (0x9D, .op16 .staAbsx)]

/-- Row Ax of the opcode map (30_encoding R109). -/
def opcodeRowA : List (Byte × Template) :=
  [(0xA0, .op8 .ldyImm), (0xA1, .op8 .ldaIzx), (0xA2, .op8 .ldxImm), (0xA4, .op8 .ldyZp), (0xA5, .op8 .ldaZp),
   (0xA6, .op8 .ldxZp), (0xA8, .op0 .tay), (0xA9, .op8 .ldaImm), (0xAA, .op0 .tax), (0xAC, .op16 .ldyAbs),
   (0xAD, .op16 .ldaAbs), (0xAE, .op16 .ldxAbs)]

/-- Row Bx of the opcode map (30_encoding R109). -/
def opcodeRowB : List (Byte × Template) :=
  [(0xB0, .op8 .bcs), (0xB1, .op8 .ldaIzy), (0xB4, .op8 .ldyZpx), (0xB5, .op8 .ldaZpx), (0xB6, .op8 .ldxZpy),
   (0xB8, .op0 .clv), (0xB9, .op16 .ldaAbsy), (0xBA, .op0 .tsx), (0xBC, .op16 .ldyAbsx),
   (0xBD, .op16 .ldaAbsx), (0xBE, .op16 .ldxAbsy)]

/-- Row Cx of the opcode map (30_encoding R109). -/
def opcodeRowC : List (Byte × Template) :=
  [(0xC0, .op8 .cpyImm), (0xC1, .op8 .cmpIzx), (0xC4, .op8 .cpyZp), (0xC5, .op8 .cmpZp), (0xC6, .op8 .decZp),
   (0xC8, .op0 .iny), (0xC9, .op8 .cmpImm), (0xCA, .op0 .dex), (0xCC, .op16 .cpyAbs), (0xCD, .op16 .cmpAbs),
   (0xCE, .op16 .decAbs)]

/-- Row Dx of the opcode map (30_encoding R109). -/
def opcodeRowD : List (Byte × Template) :=
  [(0xD0, .op8 .bne), (0xD1, .op8 .cmpIzy), (0xD5, .op8 .cmpZpx), (0xD6, .op8 .decZpx), (0xD8, .op0 .cld),
   (0xD9, .op16 .cmpAbsy), (0xDD, .op16 .cmpAbsx), (0xDE, .op16 .decAbsx)]

/-- Row Ex of the opcode map (30_encoding R109). -/
def opcodeRowE : List (Byte × Template) :=
  [(0xE0, .op8 .cpxImm), (0xE1, .op8 .sbcIzx), (0xE4, .op8 .cpxZp), (0xE5, .op8 .sbcZp), (0xE6, .op8 .incZp),
   (0xE8, .op0 .inx), (0xE9, .op8 .sbcImm), (0xEA, .op0 .nop), (0xEC, .op16 .cpxAbs), (0xED, .op16 .sbcAbs),
   (0xEE, .op16 .incAbs)]

/-- Row Fx of the opcode map (30_encoding R109). -/
def opcodeRowF : List (Byte × Template) :=
  [(0xF0, .op8 .beq), (0xF1, .op8 .sbcIzy), (0xF5, .op8 .sbcZpx), (0xF6, .op8 .incZpx), (0xF8, .op0 .sed),
   (0xF9, .op16 .sbcAbsy), (0xFD, .op16 .sbcAbsx), (0xFE, .op16 .incAbsx)]

/-- The rows of the opcode map by high nibble (30_encoding R109). -/
def opcodeRow : Nat → List (Byte × Template)
  | 0 => opcodeRow0
  | 1 => opcodeRow1
  | 2 => opcodeRow2
  | 3 => opcodeRow3
  | 4 => opcodeRow4
  | 5 => opcodeRow5
  | 6 => opcodeRow6
  | 7 => opcodeRow7
  | 8 => opcodeRow8
  | 9 => opcodeRow9
  | 10 => opcodeRowA
  | 11 => opcodeRowB
  | 12 => opcodeRowC
  | 13 => opcodeRowD
  | 14 => opcodeRowE
  | 15 => opcodeRowF
  | _ => []

/-- Lookup of an opcode byte in a list of rows. -/
def findTemplate : List (Byte × Template) → Byte → Option Template
  | [], _ => none
  | (b, t) :: rest, op => if b = op then some t else findTemplate rest op

/-- The lookup of the whole opcode byte (30_encoding R102); none for the 105 unassigned bytes of R111. -/
def opcodeTemplate (op : Byte) : Option Template := findTemplate (opcodeRow (op.toNat / 16)) op

/-- The decoder's answers. A rejection names its reason. -/
inductive Decoded where
  /-- an instruction, and the bytes after it -/
  | ok (i : Instr) (rest : List Byte)
  /-- an unassigned opcode byte (30_encoding R111): it has no length (R112) -/
  | unknownOpcode (op : Byte)
  /-- the bytes end before the instruction does -/
  | truncated
deriving DecidableEq, Repr

/-- Decode the instruction at the head of a list of bytes (30_encoding R100 to R107). -/
def decode : List Byte → Decoded
  | [] => .truncated
  | op :: rest =>
    match opcodeTemplate op with
    | none => .unknownOpcode op
    | some (.op0 i) => .ok i rest
    | some (.op8 f) =>
      match rest with
      | b :: rest' => .ok (f b) rest'
      | [] => .truncated
    | some (.op16 f) =>
      match rest with
      | l :: h :: rest' => .ok (f (wordOf h l)) rest'
      | _ => .truncated

/-- The opcode byte of an instruction (30_encoding R110). -/
def Instr.opcode : Instr → Byte
  | .cmpImm _ => 0xC9
  | .cmpZp _ => 0xC5
  | .cmpZpx _ => 0xD5
  | .cmpAbs _ => 0xCD
  | .cmpAbsx _ => 0xDD
  | .cmpAbsy _ => 0xD9
  | .cmpIzx _ => 0xC1
  | .cmpIzy _ => 0xD1
  | .cpxImm _ => 0xE0
  | .cpxZp _ => 0xE4
  | .cpxAbs _ => 0xEC
  | .cpyImm _ => 0xC0
  | .cpyZp _ => 0xC4
  | .cpyAbs _ => 0xCC
  | .adcImm _ => 0x69
  | .adcZp _ => 0x65
  | .adcZpx _ => 0x75
  | .adcAbs _ => 0x6D
  | .adcAbsx _ => 0x7D
  | .adcAbsy _ => 0x79
  | .adcIzx _ => 0x61
  | .adcIzy _ => 0x71
  | .sbcImm _ => 0xE9
  | .sbcZp _ => 0xE5
  | .sbcZpx _ => 0xF5
  | .sbcAbs _ => 0xED
  | .sbcAbsx _ => 0xFD
  | .sbcAbsy _ => 0xF9
  | .sbcIzx _ => 0xE1
  | .sbcIzy _ => 0xF1
  | .andImm _ => 0x29
  | .andZp _ => 0x25
  | .andZpx _ => 0x35
  | .andAbs _ => 0x2D
  | .andAbsx _ => 0x3D
  | .andAbsy _ => 0x39
  | .andIzx _ => 0x21
  | .andIzy _ => 0x31
  | .oraImm _ => 0x09
  | .oraZp _ => 0x05
  | .oraZpx _ => 0x15
  | .oraAbs _ => 0x0D
  | .oraAbsx _ => 0x1D
  | .oraAbsy _ => 0x19
  | .oraIzx _ => 0x01
  | .oraIzy _ => 0x11
  | .eorImm _ => 0x49
  | .eorZp _ => 0x45
  | .eorZpx _ => 0x55
  | .eorAbs _ => 0x4D
  | .eorAbsx _ => 0x5D
  | .eorAbsy _ => 0x59
  | .eorIzx _ => 0x41
  | .eorIzy _ => 0x51
  | .bitZp _ => 0x24
  | .bitAbs _ => 0x2C
  | .ldaImm _ => 0xA9
  | .ldaZp _ => 0xA5
  | .ldaZpx _ => 0xB5
  | .ldaAbs _ => 0xAD
  | .ldaAbsx _ => 0xBD
  | .ldaAbsy _ => 0xB9
  | .ldaIzx _ => 0xA1
  | .ldaIzy _ => 0xB1
  | .ldxImm _ => 0xA2
  | .ldxZp _ => 0xA6
  | .ldxZpy _ => 0xB6
  | .ldxAbs _ => 0xAE
  | .ldxAbsy _ => 0xBE
  | .ldyImm _ => 0xA0
  | .ldyZp _ => 0xA4
  | .ldyZpx _ => 0xB4
  | .ldyAbs _ => 0xAC
  | .ldyAbsx _ => 0xBC
  | .staZp _ => 0x85
  | .staZpx _ => 0x95
  | .staAbs _ => 0x8D
  | .staAbsx _ => 0x9D
  | .staAbsy _ => 0x99
  | .staIzx _ => 0x81
  | .staIzy _ => 0x91
  | .stxZp _ => 0x86
  | .stxZpy _ => 0x96
  | .stxAbs _ => 0x8E
  | .styZp _ => 0x84
  | .styZpx _ => 0x94
  | .styAbs _ => 0x8C
  | .tax => 0xAA
  | .tay => 0xA8
  | .txa => 0x8A
  | .tya => 0x98
  | .tsx => 0xBA
  | .txs => 0x9A
  | .incZp _ => 0xE6
  | .incZpx _ => 0xF6
  | .incAbs _ => 0xEE
  | .incAbsx _ => 0xFE
  | .decZp _ => 0xC6
  | .decZpx _ => 0xD6
  | .decAbs _ => 0xCE
  | .decAbsx _ => 0xDE
  | .inx => 0xE8
  | .iny => 0xC8
  | .dex => 0xCA
  | .dey => 0x88
  | .aslAcc => 0x0A
  | .aslZp _ => 0x06
  | .aslZpx _ => 0x16
  | .aslAbs _ => 0x0E
  | .aslAbsx _ => 0x1E
  | .lsrAcc => 0x4A
  | .lsrZp _ => 0x46
  | .lsrZpx _ => 0x56
  | .lsrAbs _ => 0x4E
  | .lsrAbsx _ => 0x5E
  | .rolAcc => 0x2A
  | .rolZp _ => 0x26
  | .rolZpx _ => 0x36
  | .rolAbs _ => 0x2E
  | .rolAbsx _ => 0x3E
  | .rorAcc => 0x6A
  | .rorZp _ => 0x66
  | .rorZpx _ => 0x76
  | .rorAbs _ => 0x6E
  | .rorAbsx _ => 0x7E
  | .pha => 0x48
  | .php => 0x08
  | .pla => 0x68
  | .plp => 0x28
  | .jmpAbs _ => 0x4C
  | .jmpInd _ => 0x6C
  | .jsr _ => 0x20
  | .rts => 0x60
  | .rti => 0x40
  | .bcc _ => 0x90
  | .bcs _ => 0xB0
  | .beq _ => 0xF0
  | .bne _ => 0xD0
  | .bmi _ => 0x30
  | .bpl _ => 0x10
  | .bvc _ => 0x50
  | .bvs _ => 0x70
  | .clc => 0x18
  | .sec => 0x38
  | .cld => 0xD8
  | .sed => 0xF8
  | .cli => 0x58
  | .sei => 0x78
  | .clv => 0xB8
  | .nop => 0xEA
  | .brk => 0x00

/-- The operand bytes in the instruction stream, an address low byte first (30_encoding R101, R106). -/
def Operand.bytes : Operand → List Byte
  | .implied => []
  | .accumulator => []
  | .immediate v => [v]
  | .zeroPage z => [z]
  | .zeroPageX z => [z]
  | .zeroPageY z => [z]
  | .relative d => [d]
  | .absolute a => [loByte a, hiByte a]
  | .absoluteX a => [loByte a, hiByte a]
  | .absoluteY a => [loByte a, hiByte a]
  | .indirect p => [loByte p, hiByte p]
  | .indexedIndirect z => [z]
  | .indirectIndexed z => [z]

/-- The bytes of an instruction (30_encoding R100, R101). -/
def encode (i : Instr) : List Byte := i.opcode :: i.operand.bytes

/-- The three bytes of the longest instruction, of a table word: bit 0 is the least significant bit of the first
byte, and every bit above `nbits` is 0. -/
def tableBytes (nbits w : Nat) : List Byte :=
  let v := w % 2 ^ nbits
  [BitVec.ofNat 8 v, BitVec.ofNat 8 (v / 256), BitVec.ofNat 8 (v / 65536)]

/-- The instruction the decoder reads from a word numbered as spec/opcode_table.json numbers it. -/
def decodeTableWord (nbits w : Nat) : Option Instr :=
  match decode (tableBytes nbits w) with
  | .ok i _ => some i
  | .unknownOpcode _ => none
  | .truncated => none

end Sys2Proof
end

