-- ==== Sys2Proof/Config.lean ====
section
/-! DEFINITION. What one machine fixes (the parameters of 00_scope R8 and the fixed numbers of R7) and the free
values of the model: constants with no body, of which no proof can know a value. -/

namespace Sys2Proof

/-- The Bool parameters of 00_scope R8. They are fixed for one machine and stand in State, so that a statement
about every state is a statement for all their values (log entry 2). -/
structure Params where
  /-- BRK_SETS_I: whether BRK sets the I flag after its pushes (92 D2). -/
  brkSetsI : Bool
  /-- ZP_POINTER_WRAP: whether the high pointer byte of (zp,X) and (zp),Y wraps within page zero (92 D3). -/
  zpPointerWrap : Bool
  /-- RAM_MIRROR: whether a RAM address a names RAM byte a & 0x07FF (92 D21). -/
  ramMirror : Bool
deriving DecidableEq, Repr

/-- The defaults of 00_scope R8. -/
def Params.default : Params := { brkSetsI := false, zpPointerWrap := false, ramMirror := false }

namespace Config

/-- 00_scope R7: the stack address is 0x0100 + SP. -/
def stackBase : Addr := 0x0100

/-- 00_scope R7: the BRK vector's low byte (its high byte lies at 0xFFFF). -/
def brkVector : Addr := 0xFFFE

/-- 20_memory R73: the default RAM mount covers [ramStart, ramStop]. -/
def ramStart : Nat := 0x0000

/-- 20_memory R73. -/
def ramStop : Nat := 0x1FFF

/-- 20_memory R73: with RAM_MIRROR the RAM repeats every 2048 bytes. -/
def ramMirrorSize : Nat := 0x0800

/-- 20_memory R62: no mount ends above this address. -/
def topAddress : Nat := 0xFFFF

/-- FREE VALUE (DESIGN CHOICE, log entry 3): the byte a device answers to the read that is its `draw`-th draw, at
the mount-relative `offset` (20_memory R78: "any byte", a draw for each read). -/
opaque deviceByte (draw offset : Nat) : Byte

/-- FREE VALUE (DESIGN CHOICE, log entry 13): an 8-bit register's content after an error (60_exceptions R406). -/
opaque afterFaultByte (draw register : Nat) : Byte

/-- FREE VALUE (DESIGN CHOICE, log entry 13): PC after an error (60_exceptions R406). -/
opaque afterFaultPc (draw : Nat) : Addr

/-- FREE VALUE (DESIGN CHOICE, log entry 13): what RAM holds after an error (60_exceptions R406), as bytes put into a
cleared RAM; an entry whose address is not in RAM counts for nothing. -/
opaque afterFaultRam (draw : Nat) : List (Addr × Byte)

end Config

end Sys2Proof
end

