-- ==== Sys2Proof/Machine/State.lean ====
section
/-! DEFINITION. The state of the core as plain data: all that 10_state names (R30), the parameters of one machine, and the
two fields the model adds to speak of devices (log entries 3 and 7); the reasons a step can stop; the state right after
construction (10_state R52, 70_reset R450). -/

namespace Sys2Proof.Machine

/-- The six flags of P that are stored (10_state R36, R45). Bits 4 and 5 of P are hard-wired and stand in
Flags.toByte and Flags.ofByte (log entry 9). -/
structure Flags where
  /-- bit 7, negative (R44) -/
  n : Bool
  /-- bit 6, overflow (R43) -/
  v : Bool
  /-- bit 3, decimal (R40) -/
  d : Bool
  /-- bit 2, interrupt disable (R39) -/
  i : Bool
  /-- bit 1, zero (R38) -/
  z : Bool
  /-- bit 0, carry (R37) -/
  c : Bool
deriving DecidableEq, Repr

/-- The direction of one bus access (60_exceptions R400). -/
inductive AccessKind where
  | read
  | write
deriving DecidableEq, Repr

/-- One bus access: its direction, its address and the byte that went over the bus (20_memory R69, R79). -/
structure BusEvent where
  kind : AccessKind
  addr : Addr
  value : Byte
deriving DecidableEq, Repr

/-- What stands behind a mount (20_memory R61, R75, R78; the kinds beside `ram` are choices of the parameter DEVICE
of 00_scope R8, log entry 4). -/
inductive MountKind where
  /-- the default RAM (20_memory R73), the only kind RAM_MIRROR touches -/
  | ram
  /-- a value-based store: a read returns the byte last written or loaded -/
  | storage
  /-- a store whose writes are ignored (20_memory R75: "A device may ignore writes (a ROM)") -/
  | rom
  /-- a device of which nothing is known: each read is a draw (20_memory R78) -/
  | device
deriving DecidableEq, Repr

/-- A mount of the bus: the addresses from `start` to `stop`, both included (20_memory R61). -/
structure Mount where
  start : Nat
  stop : Nat
  kind : MountKind
deriving DecidableEq, Repr

/-- The bytes of every mount that is a store, at their absolute addresses (log entry 10): a list that holds, in rising
order of address, the bytes that differ from what an unlisted address reads as (Memory.wf, Machine/Ops.lean). -/
abbrev Memory := List Host.Cell

/-- The fatal errors (60_exceptions R400): a fault is the core going to `Faulted(e)` with an exact record; `seen` is
every bus access made before it, newest first, which have happened (R406, log entry 7). Registers and RAM after it are
unspecified (R406), so a fault carries no state: safe. -/
inductive Fault where
  /-- Code 1 (R401). Raised by memRead and memWrite for an address no mount covers, so by any access of any
  instruction and by the fetch. The spec's own error: safe. -/
  | unmappedAddress (addr : Addr) (kind : AccessKind) (seen : List BusEvent)
  /-- Code 2 (R402). Raised by State.mount while the host builds the bus, for an overlap or a malformed range; by no
  instruction. The spec's own error: safe. DESIGN CHOICE (log entry 18): the record holds the refused bounds as unbounded
  numbers, since R400's (u16, u16) cannot hold an end above 0xFFFF, which R62 refuses. -/
  | mountOverlap (start stop : Nat) (seen : List BusEvent)
  /-- Code 3 (R404). Raised by readPlace and writePlace for a mode with no such operand, as the spec says; raised by
  placeAddress, for the address of a mode that has none, by the model's DESIGN CHOICE (log entry 19). No decoded
  instruction reaches either: safe. -/
  | illegalModeAccess (mode : Mode) (kind : AccessKind) (seen : List BusEvent)
  /-- Code 4 (R403). Raised by the fetch for an unassigned opcode byte: the byte and the address it was fetched
  from. The spec's own error: safe. -/
  | unknownOpcode (opcode : Byte) (addr : Addr) (seen : List BusEvent)
deriving DecidableEq, Repr

/-- The reasons the model has no answer. -/
inductive Refusal where
  /-- Raised by exec's arm of an instruction that has no meaning yet (none in this model): safe. -/
  | notModelled (mnemonic : String)
deriving DecidableEq, Repr

/-- 10_state R49. -/
inductive RunStatus where
  | running
  | faulted (e : Fault)
deriving DecidableEq, Repr

/-- The state of the machine (10_state R30). -/
structure State where
  /-- A (R31) -/
  a : Byte
  /-- X (R32) -/
  x : Byte
  /-- Y (R33) -/
  y : Byte
  /-- SP (R34) -/
  sp : Byte
  /-- the flags of P (R36) -/
  flags : Flags
  /-- PC (R35) -/
  pc : Addr
  /-- the contents of RAM and of the other stores (R48, 20_memory R76) -/
  mem : Memory
  /-- the mounts of the bus, in order (R48, 20_memory R61) -/
  mounts : List Mount
  /-- the run status (R49) -/
  status : RunStatus
  /-- the parameters of this machine (00_scope R8, log entry 2) -/
  params : Params
  /-- the model's own: every bus access since construction, newest first (20_memory R72, R79, log entry 7) -/
  log : List BusEvent
  /-- the model's own: how many device reads have been answered (log entry 3) -/
  draws : Nat
deriving DecidableEq, Repr

/-- The mount that construction makes: 8 KiB of RAM (20_memory R73). -/
def ramMount : Mount := { start := Config.ramStart, stop := Config.ramStop, kind := .ram }

/-- The state after construction (10_state R52, 70_reset R450): P = 0x24 is I alone of the six stored flags. -/
def State.reset : State where
  a := 0x00
  x := 0x00
  y := 0x00
  sp := 0xFD
  flags := { n := false, v := false, d := false, i := true, z := false, c := false }
  pc := 0x0000
  mem := []
  mounts := [ramMount]
  status := .running
  params := Params.default
  log := []
  draws := 0

end Sys2Proof.Machine
end

