-- ==== Sys2Proof/Machine/Flags.lean ====
section
/-! DEFINITION. The status register P as a byte, the status-flag calculator and the ALU, shift, logic and increment units
(10_state R36 to R46; 40_step_and_addressing R150 to R157). -/

namespace Sys2Proof.Machine

/-- A mask where a flag is set. -/
def maskIf (b : Bool) (mask : Byte) : Byte := if b then mask else 0

/-- P as it reads: bit 5 is 1 and bit 4 is 0 always (10_state R36, R41, R42, R45). -/
def Flags.toByte (f : Flags) : Byte :=
  maskIf f.n 0x80 ||| maskIf f.v 0x40 ||| 0x20 ||| maskIf f.d 0x08 ||| maskIf f.i 0x04 ||| maskIf f.z 0x02 |||
    maskIf f.c 0x01

/-- P loaded from a byte: bits 4 and 5 of the byte are dropped (10_state R45, R46). -/
def Flags.ofByte (v : Byte) : Flags where
  n := v.getLsbD 7
  v := v.getLsbD 6
  d := v.getLsbD 3
  i := v.getLsbD 2
  z := v.getLsbD 1
  c := v.getLsbD 0

/-- The pushed copy of P: B is set in it (10_state R41: PHP and BRK push P | 0x10). -/
def Flags.pushed (f : Flags) : Byte := f.toByte ||| 0x10

/-- SetZN (40 R150). -/
def Flags.setZN (f : Flags) (v : Byte) : Flags := { f with z := v == 0, n := v.getLsbD 7 }

/-- A result of the adder. -/
structure AluResult where
  value : Byte
  carry : Bool
  overflow : Bool
deriving DecidableEq, Repr

/-- AddC (40 R152): the carry is the ninth bit of the sum (90 C1); never decimal. -/
def addC (a b : Byte) (c : Bool) : AluResult :=
  let t := a.toNat + b.toNat + c.toNat
  let r := BitVec.ofNat 8 t
  { value := r, carry := decide (256 ≤ t), overflow := ((a ^^^ r) &&& (b ^^^ r) &&& 0x80) != 0 }

/-- SubC (40 R153): the carry is "no borrow" (90 C2); never decimal. -/
def subC (a b : Byte) (c : Bool) : AluResult :=
  let t : Int := (a.toNat : Int) - b.toNat - (1 - c.toNat)
  let r := BitVec.ofInt 8 t
  { value := r, carry := decide (0 ≤ t), overflow := ((a ^^^ b) &&& (a ^^^ r) &&& 0x80) != 0 }

/-- The flags after an addition or subtraction: C, V, Z and N (41 R203, R204). -/
def Flags.ofAlu (f : Flags) (r : AluResult) : Flags :=
  { f.setZN r.value with c := r.carry, v := r.overflow }

/-- Cmp (40 R154): C, Z and N from r and m; V unchanged, no carry in. -/
def Flags.compare (f : Flags) (r m : Byte) : Flags :=
  { f with c := decide (m.toNat ≤ r.toNat), z := r == m, n := (r - m).getLsbD 7 }

/-- BIT's flags (42 R233): Z from A & m, N and V from m. -/
def Flags.bitTest (f : Flags) (a m : Byte) : Flags :=
  { f with z := (a &&& m) == 0, n := m.getLsbD 7, v := m.getLsbD 6 }

/-- The flags after a shift or rotate: C is the bit shifted out, Z and N from the result (44 R286 to R289). -/
def Flags.shifted (f : Flags) (r : Byte × Bool) : Flags := { f.setZN r.1 with c := r.2 }

/-- Asl (40 R155): result and carry out. -/
def aslUnit (x : Byte) (_ : Bool) : Byte × Bool := (x <<< 1, x.getLsbD 7)

/-- Lsr (40 R155). -/
def lsrUnit (x : Byte) (_ : Bool) : Byte × Bool := (x >>> 1, x.getLsbD 0)

/-- Rol (40 R155): the carry before the instruction goes into bit 0. -/
def rolUnit (x : Byte) (c : Bool) : Byte × Bool := ((x <<< 1) ||| maskIf c 0x01, x.getLsbD 7)

/-- Ror (40 R155): the carry before the instruction goes into bit 7. -/
def rorUnit (x : Byte) (c : Bool) : Byte × Bool := ((x >>> 1) ||| maskIf c 0x80, x.getLsbD 0)

/-- And (40 R156). -/
def andUnit (a m : Byte) : Byte := a &&& m

/-- Or (40 R156). -/
def orUnit (a m : Byte) : Byte := a ||| m

/-- Xor (40 R156). -/
def xorUnit (a m : Byte) : Byte := a ^^^ m

/-- Inc (40 R157). -/
def incUnit (x : Byte) : Byte := x + 1

/-- Dec (40 R157). -/
def decUnit (x : Byte) : Byte := x - 1

end Sys2Proof.Machine
end

