-- ==== Sys2Proof/Machine/Ops.lean ====
section
/-! DEFINITION. The named operations over registers, memory and the bus: sequencing of outcomes, register updates, the
canonical byte list, the bus primitives MemRead, MemWrite and ReadWord, the stack primitives, BRK's trap entry and the
return from it. -/

namespace Sys2Proof.Machine

/-- An operation that answers a value and a state, or stops. -/
abbrev Result (α : Type) := Host.Outcome (α × State) Fault Refusal

/-- An operation that answers a state, or stops. -/
abbrev StepResult := Host.Outcome State Fault Refusal

/-- Go on with the value and the state of an operation; the first that stops ends the step (60_exceptions R407). -/
def bindValue {α β : Type} (r : Result α) (f : α → State → Host.Outcome β Fault Refusal) :
    Host.Outcome β Fault Refusal :=
  match r with
  | .next (v, s) => f v s
  | .fault e => .fault e
  | .refused e => .refused e

/-- Go on with the state of an operation; the first that stops ends the step (60_exceptions R407). -/
def bindState {β : Type} (r : StepResult) (f : State → Host.Outcome β Fault Refusal) : Host.Outcome β Fault Refusal :=
  match r with
  | .next s => f s
  | .fault e => .fault e
  | .refused e => .refused e

/-! Register updates. -/

/-- A <- v (10_state R31). -/
def State.setA (s : State) (v : Byte) : State := { s with a := v }
/-- X <- v (10_state R32). -/
def State.setX (s : State) (v : Byte) : State := { s with x := v }
/-- Y <- v (10_state R33). -/
def State.setY (s : State) (v : Byte) : State := { s with y := v }
/-- SP <- v (10_state R34). -/
def State.setSp (s : State) (v : Byte) : State := { s with sp := v }
/-- PC <- v (10_state R35). -/
def State.setPc (s : State) (v : Addr) : State := { s with pc := v }
/-- Replace the stored flags (10_state R36). -/
def State.setFlags (s : State) (f : Flags) : State := { s with flags := f }
/-- Replace the bytes of the stores. -/
def State.setMem (s : State) (m : Memory) : State := { s with mem := m }
/-- Note a bus access (log entry 7). -/
def State.record (s : State) (e : BusEvent) : State := { s with log := e :: s.log }
/-- Count a device read (log entry 3). -/
def State.countDraw (s : State) : State := { s with draws := s.draws + 1 }

/-- P as it reads (10_state R36, R45). -/
def State.p (s : State) : Byte := s.flags.toByte
/-- P <- (v & ~0x10) | 0x20 (10_state R46). -/
def State.setP (s : State) (v : Byte) : State := s.setFlags (Flags.ofByte v)
/-- SetZN (40 R150). -/
def State.setZN (s : State) (v : Byte) : State := s.setFlags (s.flags.setZN v)

/-! The bytes of the stores. -/

/-- What an unlisted address reads as: 0 (10_state R48: RAM is zeroed at construction; a DESIGN CHOICE for the other
stores, log entry 5). -/
def Memory.blank : Byte := 0

/-- The byte held at an address. -/
def Memory.read : Memory → Nat → Byte
  | [], _ => Memory.blank
  | (k, v) :: rest, a => if k = a then v else Memory.read rest a

/-- The list without an address. -/
def Memory.erase : Memory → Nat → Memory
  | [], _ => []
  | (k, v) :: rest, a => if k = a then Memory.erase rest a else (k, v) :: Memory.erase rest a

/-- The list with a byte at an address, put at its place in the rising order. -/
def Memory.insert : Memory → Nat → Byte → Memory
  | [], a, v => [(a, v)]
  | (k, w) :: rest, a, v =>
    if a < k then (a, v) :: (k, w) :: rest
    else if k = a then (a, v) :: rest
    else (k, w) :: Memory.insert rest a v

/-- Store a byte at an address; the byte an unlisted address reads as is not listed. -/
def Memory.write (m : Memory) (a : Nat) (v : Byte) : Memory :=
  if v = Memory.blank then m.erase a else m.insert a v

/-- The canonical form: addresses strictly rising, no byte listed that an unlisted address reads as. -/
def Memory.wf : Memory → Bool
  | [] => true
  | (k, v) :: rest => v != Memory.blank && rest.all (fun c => decide (k < c.1)) && Memory.wf rest

/-! The bus. -/

/-- A mount covers the addresses from start to stop (20_memory R61). -/
def Mount.covers (m : Mount) (a : Addr) : Bool := decide (m.start ≤ a.toNat) && decide (a.toNat ≤ m.stop)

/-- The region-relative offset a device sees (20_memory R61). -/
def Mount.offset (m : Mount) (a : Addr) : Nat := a.toNat - m.start

/-- The place in the byte list of an address of a store: with RAM_MIRROR the RAM repeats every 2048 bytes
(20_memory R73, R77; log entries 10 and 12). -/
def Mount.cell (m : Mount) (p : Params) (a : Addr) : Nat :=
  m.start + (if m.kind = .ram ∧ p.ramMirror then m.offset a % Config.ramMirrorSize else m.offset a)

/-- The mount covering an address (20_memory R63; unique where mounts do not overlap, log entry 11). -/
def State.mountAt (s : State) (a : Addr) : Option Mount := s.mounts.find? (fun m => m.covers a)

/-- The kind of the mount covering an address. -/
def State.kindAt (s : State) (a : Addr) : Option MountKind := (s.mountAt a).map Mount.kind

/-- The place in the byte list of an address; none where no store stands there. -/
def State.cellAt (s : State) (a : Addr) : Option Nat :=
  match s.mountAt a with
  | none => none
  | some m => if m.kind = .device then none else some (m.cell s.params a)

/-- The byte a store holds at an address, looked at without an access; none where no store stands there. -/
def State.peek (s : State) (a : Addr) : Option Byte := (s.cellAt a).map s.mem.read

/-- Put a byte into the store at an address from outside, with no access: the host's loader (70_reset R450 step 3).
Nothing where no store stands there. -/
def State.poke (s : State) (a : Addr) (v : Byte) : State :=
  match s.cellAt a with
  | none => s
  | some k => s.setMem (s.mem.write k v)

/-- MemRead(a, 1) (20_memory R63, R76, R78). -/
def memRead (a : Addr) (s : State) : Result Byte :=
  match s.mountAt a with
  | none => .fault (.unmappedAddress a .read s.log)
  | some m =>
    match m.kind with
    | .device =>
      let v := Config.deviceByte s.draws (m.offset a)
      .next (v, (s.record ⟨.read, a, v⟩).countDraw)
    | .ram | .storage | .rom =>
      let v := s.mem.read (m.cell s.params a)
      .next (v, s.record ⟨.read, a, v⟩)

/-- MemWrite(a, 1, v) (20_memory R64, R77, R78). -/
def memWrite (a : Addr) (v : Byte) (s : State) : StepResult :=
  match s.mountAt a with
  | none => .fault (.unmappedAddress a .write s.log)
  | some m =>
    match m.kind with
    | .ram | .storage => .next ((s.record ⟨.write, a, v⟩).setMem (s.mem.write (m.cell s.params a) v))
    | .rom | .device => .next (s.record ⟨.write, a, v⟩)

/-- Two byte reads, the low byte first (20_memory R65). -/
def readPair (lo hi : Addr) (s : State) : Result Addr :=
  bindValue (memRead lo s) fun l s1 => bindValue (memRead hi s1) fun h s2 => .next (wordOf h l, s2)

/-- ReadWord(a): the second byte lies at u16(a + 1) (20_memory R65). -/
def readWord (a : Addr) (s : State) : Result Addr := readPair a (a + 1) s

/-! The stack. -/

/-- 0x0100 + SP (10_state R34). -/
def stackAddr (sp : Byte) : Addr := Config.stackBase + zext16 sp

/-- Push(v) (40 R160). -/
def push (v : Byte) (s : State) : StepResult :=
  bindState (memWrite (stackAddr s.sp) v s) fun s1 => .next (s1.setSp (s1.sp - 1))

/-- Pull() (40 R161). -/
def pull (s : State) : Result Byte :=
  let s1 := s.setSp (s.sp + 1)
  memRead (stackAddr s1.sp) s1

/-- PushWord(w): high then low (40 R162). -/
def pushWord (w : Addr) (s : State) : StepResult :=
  bindState (push (hiByte w) s) fun s1 => push (loByte w) s1

/-- PullWord(): low then high (40 R163). -/
def pullWord (s : State) : Result Addr :=
  bindValue (pull s) fun l s1 => bindValue (pull s1) fun h s2 => .next (wordOf h l, s2)

/-! The trap. -/

/-- BRK's mask: I <- 1 where the parameter BRK_SETS_I says so (47 R368). -/
def State.maskOnBreak (s : State) : State :=
  if s.params.brkSetsI then s.setFlags { s.flags with i := true } else s

/-- TAKING THE TRAP (60_exceptions R409, 47 R368), PC standing at opcode address + 1: save PC + 1, high byte first,
then P | 0x10; mask if the parameter says so; go to the word at the vector. -/
def takeBreak (s : State) : StepResult :=
  bindState (pushWord (s.pc + 1) s) fun s1 =>
    bindState (push s1.flags.pushed s1) fun s2 =>
      bindValue (readWord Config.brkVector s2.maskOnBreak) fun target s3 => .next (s3.setPc target)

/-- THE RETURN FROM IT (60_exceptions R411, 46 R333): P, with B cleared and U set, then PC, low byte first, no + 1. -/
def returnFromBreak (s : State) : StepResult :=
  bindValue (pull s) fun v s1 => bindValue (pullWord (s1.setP v)) fun w s2 => .next (s2.setPc w)

end Sys2Proof.Machine
end

