-- ==== Sys2Proof/Machine/Operands.lean ====
section
/-! DEFINITION. The addressing-mode resolver: Resolve, ReadOperand, WriteOperand (40_step_and_addressing R133 to R149) and
the generic PC advance (R132). Throughout, PC is the address of the first operand byte; the operand bytes themselves
have been read by the fetch (log entry 8). -/

namespace Sys2Proof.Machine

/-- What a mode resolves to, once for each step (40 R149). -/
inductive Place where
  /-- implied: nothing (R134) -/
  | nothing
  /-- register A (R135) -/
  | accumulator
  /-- the immediate byte, read at PC (R136) -/
  | constant (v : Byte)
  /-- the byte at an effective address -/
  | memory (ea : Addr)
  /-- a branch or jump target, which is no data operand (R147, 92 D22) -/
  | target (mode : Mode) (ea : Addr)
deriving DecidableEq, Repr

/-- Where the high byte of a zero-page pointer is read: at u16(z + 1), or at u8(z + 1) under ZP_POINTER_WRAP
(40 R145, R146). -/
def pointerHigh (p : Params) (z : Byte) : Addr := if p.zpPointerWrap then zext16 (z + 1) else zext16 z + 1

/-- Where the high byte of the JMP pointer is read: in the pointer's own page (40 R144). -/
def samePageNext (p : Addr) : Addr := wordOf (hiByte p) (loByte p + 1)

/-- Resolve(mode) (40 R134 to R146, R149). -/
def resolve : Operand → State → Result Place
  | .implied, s => .next (.nothing, s)
  | .accumulator, s => .next (.accumulator, s)
  | .immediate v, s => .next (.constant v, s)
  | .zeroPage z, s => .next (.memory (zext16 z), s)
  | .zeroPageX z, s => .next (.memory (zext16 (z + s.x)), s)
  | .zeroPageY z, s => .next (.memory (zext16 (z + s.y)), s)
  | .relative d, s => .next (.target .relative (s.pc + 1 + sext16 d), s)
  | .absolute a, s => .next (.memory a, s)
  | .absoluteX a, s => .next (.memory (a + zext16 s.x), s)
  | .absoluteY a, s => .next (.memory (a + zext16 s.y), s)
  | .indirect p, s => bindValue (readPair p (samePageNext p) s) fun ea s1 => .next (.target .indirect ea, s1)
  | .indexedIndirect z, s =>
    bindValue (readPair (zext16 (z + s.x)) (pointerHigh s.params (z + s.x)) s) fun ea s1 => .next (.memory ea, s1)
  | .indirectIndexed z, s =>
    bindValue (readPair (zext16 z) (pointerHigh s.params z) s) fun w s1 => .next (.memory (w + zext16 s1.y), s1)

/-- The read step of a mode (40 R147). -/
def readPlace : Place → State → Result Byte
  | .nothing, s => .fault (.illegalModeAccess .implied .read s.log)
  | .accumulator, s => .next (s.a, s)
  | .constant v, s => .next (v, s)
  | .memory ea, s => memRead ea s
  | .target m _, s => .fault (.illegalModeAccess m .read s.log)

/-- The write step of a mode (40 R148). -/
def writePlace : Place → Byte → State → StepResult
  | .nothing, _, s => .fault (.illegalModeAccess .implied .write s.log)
  | .accumulator, v, s => .next (s.setA v)
  | .constant _, _, s => .fault (.illegalModeAccess .immediate .write s.log)
  | .memory ea, v, s => memWrite ea v s
  | .target m _, _, s => .fault (.illegalModeAccess m .write s.log)

/-- The effective address a jump or a branch goes to (40 R140, R141, R144); an immediate operand's is PC (R136). DESIGN
CHOICE (log entry 19): of an implied or accumulator operand's address the spec says only that no opcode asks for it
(R149); the model raises IllegalModeAccess of that mode and a read, which no decoded instruction reaches. -/
def placeAddress : Place → State → Result Addr
  | .nothing, s => .fault (.illegalModeAccess .implied .read s.log)
  | .accumulator, s => .fault (.illegalModeAccess .accumulator .read s.log)
  | .constant _, s => .next (s.pc, s)
  | .memory ea, s => .next (ea, s)
  | .target _ ea, s => .next (ea, s)

/-- Resolve, then read through the mode: ReadOperand(mode) (40 R147). -/
def readOperand (op : Operand) (s : State) : Result Byte := bindValue (resolve op s) readPlace

/-- Resolve, then take the address. -/
def resolveAddress (op : Operand) (s : State) : Result Addr := bindValue (resolve op s) placeAddress

/-- The generic advance PC <- u16(PC + size(mode)) (40 R132). -/
def advance (op : Operand) (s : State) : State := s.setPc (s.pc + BitVec.ofNat 16 op.mode.size)

end Sys2Proof.Machine
end

