-- ==== Sys2Proof/Machine/CompareArith.lean ====
section
/-! DEFINITION. Compare and add/subtract instructions (41_compare_arith.md): CMP, CPX, CPY, ADC, SBC.
One meaning for each row of the opcode table, over operations shared by a family. In a meaning, PC is the address of the
first operand byte (40_step_and_addressing R132). -/

namespace Sys2Proof.Machine

/-- CMP, CPX, CPY: compare a register with the operand (41 R200 to R202). -/
def compareWith (reg : State → Byte) (op : Operand) (s : State) : StepResult :=
  bindValue (readOperand op s) fun m s1 => .next (advance op (s1.setFlags (s1.flags.compare (reg s1) m)))

/-- ADC, SBC: A and the flags from the adder (41 R203, R204). -/
def addWith (unit : Byte → Byte → Bool → AluResult) (op : Operand) (s : State) : StepResult :=
  bindValue (readOperand op s) fun m s1 =>
    let r := unit s1.a m s1.flags.c
    .next (advance op ((s1.setA r.value).setFlags (s1.flags.ofAlu r)))

/-- 0xC9 CMP #$nn (41 R200). -/
def execCmpImm (v : Byte) (s : State) : StepResult := compareWith State.a (.immediate v) s

/-- 0xC5 CMP $nn (41 R200). -/
def execCmpZp (z : Byte) (s : State) : StepResult := compareWith State.a (.zeroPage z) s

/-- 0xD5 CMP $nn,X (41 R200). -/
def execCmpZpx (z : Byte) (s : State) : StepResult := compareWith State.a (.zeroPageX z) s

/-- 0xCD CMP $nnnn (41 R200). -/
def execCmpAbs (a : Addr) (s : State) : StepResult := compareWith State.a (.absolute a) s

/-- 0xDD CMP $nnnn,X (41 R200). -/
def execCmpAbsx (a : Addr) (s : State) : StepResult := compareWith State.a (.absoluteX a) s

/-- 0xD9 CMP $nnnn,Y (41 R200). -/
def execCmpAbsy (a : Addr) (s : State) : StepResult := compareWith State.a (.absoluteY a) s

/-- 0xC1 CMP ($nn,X) (41 R200). -/
def execCmpIzx (z : Byte) (s : State) : StepResult := compareWith State.a (.indexedIndirect z) s

/-- 0xD1 CMP ($nn),Y (41 R200). -/
def execCmpIzy (z : Byte) (s : State) : StepResult := compareWith State.a (.indirectIndexed z) s

/-- 0xE0 CPX #$nn (41 R201). -/
def execCpxImm (v : Byte) (s : State) : StepResult := compareWith State.x (.immediate v) s

/-- 0xE4 CPX $nn (41 R201). -/
def execCpxZp (z : Byte) (s : State) : StepResult := compareWith State.x (.zeroPage z) s

/-- 0xEC CPX $nnnn (41 R201). -/
def execCpxAbs (a : Addr) (s : State) : StepResult := compareWith State.x (.absolute a) s

/-- 0xC0 CPY #$nn (41 R202). -/
def execCpyImm (v : Byte) (s : State) : StepResult := compareWith State.y (.immediate v) s

/-- 0xC4 CPY $nn (41 R202). -/
def execCpyZp (z : Byte) (s : State) : StepResult := compareWith State.y (.zeroPage z) s

/-- 0xCC CPY $nnnn (41 R202). -/
def execCpyAbs (a : Addr) (s : State) : StepResult := compareWith State.y (.absolute a) s

/-- 0x69 ADC #$nn (41 R203). -/
def execAdcImm (v : Byte) (s : State) : StepResult := addWith addC (.immediate v) s

/-- 0x65 ADC $nn (41 R203). -/
def execAdcZp (z : Byte) (s : State) : StepResult := addWith addC (.zeroPage z) s

/-- 0x75 ADC $nn,X (41 R203). -/
def execAdcZpx (z : Byte) (s : State) : StepResult := addWith addC (.zeroPageX z) s

/-- 0x6D ADC $nnnn (41 R203). -/
def execAdcAbs (a : Addr) (s : State) : StepResult := addWith addC (.absolute a) s

/-- 0x7D ADC $nnnn,X (41 R203). -/
def execAdcAbsx (a : Addr) (s : State) : StepResult := addWith addC (.absoluteX a) s

/-- 0x79 ADC $nnnn,Y (41 R203). -/
def execAdcAbsy (a : Addr) (s : State) : StepResult := addWith addC (.absoluteY a) s

/-- 0x61 ADC ($nn,X) (41 R203). -/
def execAdcIzx (z : Byte) (s : State) : StepResult := addWith addC (.indexedIndirect z) s

/-- 0x71 ADC ($nn),Y (41 R203). -/
def execAdcIzy (z : Byte) (s : State) : StepResult := addWith addC (.indirectIndexed z) s

/-- 0xE9 SBC #$nn (41 R204). -/
def execSbcImm (v : Byte) (s : State) : StepResult := addWith subC (.immediate v) s

/-- 0xE5 SBC $nn (41 R204). -/
def execSbcZp (z : Byte) (s : State) : StepResult := addWith subC (.zeroPage z) s

/-- 0xF5 SBC $nn,X (41 R204). -/
def execSbcZpx (z : Byte) (s : State) : StepResult := addWith subC (.zeroPageX z) s

/-- 0xED SBC $nnnn (41 R204). -/
def execSbcAbs (a : Addr) (s : State) : StepResult := addWith subC (.absolute a) s

/-- 0xFD SBC $nnnn,X (41 R204). -/
def execSbcAbsx (a : Addr) (s : State) : StepResult := addWith subC (.absoluteX a) s

/-- 0xF9 SBC $nnnn,Y (41 R204). -/
def execSbcAbsy (a : Addr) (s : State) : StepResult := addWith subC (.absoluteY a) s

/-- 0xE1 SBC ($nn,X) (41 R204). -/
def execSbcIzx (z : Byte) (s : State) : StepResult := addWith subC (.indexedIndirect z) s

/-- 0xF1 SBC ($nn),Y (41 R204). -/
def execSbcIzy (z : Byte) (s : State) : StepResult := addWith subC (.indirectIndexed z) s

end Sys2Proof.Machine
end

