-- ==== Sys2Proof/Machine/Control.lean ====
section
/-! DEFINITION. Jumps, calls, returns and branches (46_control.md): JMP, JSR, RTS, RTI and the eight branches. Each writes PC itself
(40 R132).
One meaning for each row of the opcode table, over operations shared by a family. In a meaning, PC is the address of the
first operand byte (40_step_and_addressing R132). -/

namespace Sys2Proof.Machine

/-- JMP: PC <- EA (46 R330). -/
def jumpTo (op : Operand) (s : State) : StepResult :=
  bindValue (resolveAddress op s) fun ea s1 => .next (s1.setPc ea)

/-- A branch: the target is resolved whether or not it is taken (46 R334). -/
def branchIf (cond : Flags → Bool) (op : Operand) (s : State) : StepResult :=
  bindValue (resolveAddress op s) fun ea s1 =>
    if cond s1.flags then .next (s1.setPc ea) else .next (s1.setPc (s1.pc + 1))

/-- 0x4C JMP $nnnn (46 R330). -/
def execJmpAbs (a : Addr) (s : State) : StepResult := jumpTo (.absolute a) s

/-- 0x6C JMP ($nnnn) (46 R330). -/
def execJmpInd (p : Addr) (s : State) : StepResult := jumpTo (.indirect p) s

/-- 0x20 JSR $nnnn (46 R331): the return address is the address of its last byte, PC + 2 - 1. -/
def execJsr (a : Addr) (s : State) : StepResult :=
  bindValue (resolveAddress (.absolute a) s) fun target s1 =>
    bindState (pushWord (s1.pc + 2 - 1) s1) fun s2 => .next (s2.setPc target)

/-- 0x60 RTS (46 R332): the pulled word + 1. -/
def execRts (s : State) : StepResult := bindValue (pullWord s) fun w s1 => .next (s1.setPc (w + 1))

/-- 0x40 RTI (46 R333). -/
def execRti (s : State) : StepResult := returnFromBreak s

/-- 0x90 BCC label (46 R335). -/
def execBcc (d : Byte) (s : State) : StepResult := branchIf (fun f => !f.c) (.relative d) s

/-- 0xB0 BCS label (46 R336). -/
def execBcs (d : Byte) (s : State) : StepResult := branchIf (fun f => f.c) (.relative d) s

/-- 0xF0 BEQ label (46 R337). -/
def execBeq (d : Byte) (s : State) : StepResult := branchIf (fun f => f.z) (.relative d) s

/-- 0xD0 BNE label (46 R338). -/
def execBne (d : Byte) (s : State) : StepResult := branchIf (fun f => !f.z) (.relative d) s

/-- 0x30 BMI label (46 R339). -/
def execBmi (d : Byte) (s : State) : StepResult := branchIf (fun f => f.n) (.relative d) s

/-- 0x10 BPL label (46 R340). -/
def execBpl (d : Byte) (s : State) : StepResult := branchIf (fun f => !f.n) (.relative d) s

/-- 0x50 BVC label (46 R341). -/
def execBvc (d : Byte) (s : State) : StepResult := branchIf (fun f => !f.v) (.relative d) s

/-- 0x70 BVS label (46 R342). -/
def execBvs (d : Byte) (s : State) : StepResult := branchIf (fun f => f.v) (.relative d) s

end Sys2Proof.Machine
end

