-- ==== Sys2Proof/Machine/FlagOps.lean ====
section
/-! DEFINITION. Flag instructions, NOP and BRK (47_flags_nop_brk.md).
One meaning for each row of the opcode table, over operations shared by a family. In a meaning, PC is the address of the
first operand byte (40_step_and_addressing R132). -/

namespace Sys2Proof.Machine

/-- A flag instruction: the stored flags change and nothing else, then the generic advance (47 section 1, 40 R132). -/
def changeFlags (f : Flags → Flags) (s : State) : StepResult := .next (advance .implied (s.setFlags (f s.flags)))

/-- 0x18 CLC (47 R360). -/
def execClc (s : State) : StepResult := changeFlags (fun f => { f with c := false }) s

/-- 0x38 SEC (47 R361). -/
def execSec (s : State) : StepResult := changeFlags (fun f => { f with c := true }) s

/-- 0xD8 CLD (47 R362). -/
def execCld (s : State) : StepResult := changeFlags (fun f => { f with d := false }) s

/-- 0xF8 SED (47 R363). -/
def execSed (s : State) : StepResult := changeFlags (fun f => { f with d := true }) s

/-- 0x58 CLI (47 R364). -/
def execCli (s : State) : StepResult := changeFlags (fun f => { f with i := false }) s

/-- 0x78 SEI (47 R365). -/
def execSei (s : State) : StepResult := changeFlags (fun f => { f with i := true }) s

/-- 0xB8 CLV (47 R366). -/
def execClv (s : State) : StepResult := changeFlags (fun f => { f with v := false }) s

/-- 0xEA NOP (47 R367). -/
def execNop (s : State) : StepResult := .next (advance .implied s)

/-- 0x00 BRK (47 R368). -/
def execBrk (s : State) : StepResult := takeBreak s

end Sys2Proof.Machine
end

