-- ==== Sys2Proof/Machine/IncDecShift.lean ====
section
/-! DEFINITION. Increment, decrement, shift and rotate instructions (44_incdec_shift.md): INC, DEC, INX, INY, DEX, DEY, ASL, LSR, ROL, ROR.
One meaning for each row of the opcode table, over operations shared by a family. In a meaning, PC is the address of the
first operand byte (40_step_and_addressing R132). -/

namespace Sys2Proof.Machine

/-- INC, DEC: read, modify, write the one place, then SetZN (44 R280, R281). -/
def modifyWith (unit : Byte → Byte) (op : Operand) (s : State) : StepResult :=
  bindValue (resolve op s) fun place s1 =>
    bindValue (readPlace place s1) fun m s2 =>
      bindState (writePlace place (unit m) s2) fun s3 => .next (advance op (s3.setZN (unit m)))

/-- INX, INY, DEX, DEY: a register, then SetZN (44 R282 to R285). -/
def modifyRegister (unit : Byte → Byte) (reg : State → Byte) (set : State → Byte → State) (s : State) : StepResult :=
  .next (advance .implied ((set s (unit (reg s))).setZN (unit (reg s))))

/-- ASL, LSR, ROL, ROR: read, shift, write the one place (A or memory), then C, Z and N (44 R286 to R289). -/
def shiftWith (unit : Byte → Bool → Byte × Bool) (op : Operand) (s : State) : StepResult :=
  bindValue (resolve op s) fun place s1 =>
    bindValue (readPlace place s1) fun x s2 =>
      let r := unit x s2.flags.c
      bindState (writePlace place r.1 s2) fun s3 => .next (advance op (s3.setFlags (s3.flags.shifted r)))

/-- 0xE6 INC $nn (44 R280). -/
def execIncZp (z : Byte) (s : State) : StepResult := modifyWith incUnit (.zeroPage z) s

/-- 0xF6 INC $nn,X (44 R280). -/
def execIncZpx (z : Byte) (s : State) : StepResult := modifyWith incUnit (.zeroPageX z) s

/-- 0xEE INC $nnnn (44 R280). -/
def execIncAbs (a : Addr) (s : State) : StepResult := modifyWith incUnit (.absolute a) s

/-- 0xFE INC $nnnn,X (44 R280). -/
def execIncAbsx (a : Addr) (s : State) : StepResult := modifyWith incUnit (.absoluteX a) s

/-- 0xC6 DEC $nn (44 R281). -/
def execDecZp (z : Byte) (s : State) : StepResult := modifyWith decUnit (.zeroPage z) s

/-- 0xD6 DEC $nn,X (44 R281). -/
def execDecZpx (z : Byte) (s : State) : StepResult := modifyWith decUnit (.zeroPageX z) s

/-- 0xCE DEC $nnnn (44 R281). -/
def execDecAbs (a : Addr) (s : State) : StepResult := modifyWith decUnit (.absolute a) s

/-- 0xDE DEC $nnnn,X (44 R281). -/
def execDecAbsx (a : Addr) (s : State) : StepResult := modifyWith decUnit (.absoluteX a) s

/-- 0xE8 INX (44 R282). -/
def execInx (s : State) : StepResult := modifyRegister incUnit State.x State.setX s

/-- 0xC8 INY (44 R283). -/
def execIny (s : State) : StepResult := modifyRegister incUnit State.y State.setY s

/-- 0xCA DEX (44 R284). -/
def execDex (s : State) : StepResult := modifyRegister decUnit State.x State.setX s

/-- 0x88 DEY (44 R285). -/
def execDey (s : State) : StepResult := modifyRegister decUnit State.y State.setY s

/-- 0x0A ASL A (44 R286). -/
def execAslAcc (s : State) : StepResult := shiftWith aslUnit .accumulator s

/-- 0x06 ASL $nn (44 R286). -/
def execAslZp (z : Byte) (s : State) : StepResult := shiftWith aslUnit (.zeroPage z) s

/-- 0x16 ASL $nn,X (44 R286). -/
def execAslZpx (z : Byte) (s : State) : StepResult := shiftWith aslUnit (.zeroPageX z) s

/-- 0x0E ASL $nnnn (44 R286). -/
def execAslAbs (a : Addr) (s : State) : StepResult := shiftWith aslUnit (.absolute a) s

/-- 0x1E ASL $nnnn,X (44 R286). -/
def execAslAbsx (a : Addr) (s : State) : StepResult := shiftWith aslUnit (.absoluteX a) s

/-- 0x4A LSR A (44 R287). -/
def execLsrAcc (s : State) : StepResult := shiftWith lsrUnit .accumulator s

/-- 0x46 LSR $nn (44 R287). -/
def execLsrZp (z : Byte) (s : State) : StepResult := shiftWith lsrUnit (.zeroPage z) s

/-- 0x56 LSR $nn,X (44 R287). -/
def execLsrZpx (z : Byte) (s : State) : StepResult := shiftWith lsrUnit (.zeroPageX z) s

/-- 0x4E LSR $nnnn (44 R287). -/
def execLsrAbs (a : Addr) (s : State) : StepResult := shiftWith lsrUnit (.absolute a) s

/-- 0x5E LSR $nnnn,X (44 R287). -/
def execLsrAbsx (a : Addr) (s : State) : StepResult := shiftWith lsrUnit (.absoluteX a) s

/-- 0x2A ROL A (44 R288). -/
def execRolAcc (s : State) : StepResult := shiftWith rolUnit .accumulator s

/-- 0x26 ROL $nn (44 R288). -/
def execRolZp (z : Byte) (s : State) : StepResult := shiftWith rolUnit (.zeroPage z) s

/-- 0x36 ROL $nn,X (44 R288). -/
def execRolZpx (z : Byte) (s : State) : StepResult := shiftWith rolUnit (.zeroPageX z) s

/-- 0x2E ROL $nnnn (44 R288). -/
def execRolAbs (a : Addr) (s : State) : StepResult := shiftWith rolUnit (.absolute a) s

/-- 0x3E ROL $nnnn,X (44 R288). -/
def execRolAbsx (a : Addr) (s : State) : StepResult := shiftWith rolUnit (.absoluteX a) s

/-- 0x6A ROR A (44 R289). -/
def execRorAcc (s : State) : StepResult := shiftWith rorUnit .accumulator s

/-- 0x66 ROR $nn (44 R289). -/
def execRorZp (z : Byte) (s : State) : StepResult := shiftWith rorUnit (.zeroPage z) s

/-- 0x76 ROR $nn,X (44 R289). -/
def execRorZpx (z : Byte) (s : State) : StepResult := shiftWith rorUnit (.zeroPageX z) s

/-- 0x6E ROR $nnnn (44 R289). -/
def execRorAbs (a : Addr) (s : State) : StepResult := shiftWith rorUnit (.absolute a) s

/-- 0x7E ROR $nnnn,X (44 R289). -/
def execRorAbsx (a : Addr) (s : State) : StepResult := shiftWith rorUnit (.absoluteX a) s

end Sys2Proof.Machine
end

