-- ==== Sys2Proof/Machine/LoadStore.lean ====
section
/-! DEFINITION. Load, store and transfer instructions (43_load_store_transfer.md): LDA, LDX, LDY, STA, STX, STY, TAX, TAY, TXA, TYA, TSX,
TXS.
One meaning for each row of the opcode table, over operations shared by a family. In a meaning, PC is the address of the
first operand byte (40_step_and_addressing R132). -/

namespace Sys2Proof.Machine

/-- LDA, LDX, LDY: the operand into a register, then SetZN (43 R250 to R252). -/
def loadInto (set : State → Byte → State) (op : Operand) (s : State) : StepResult :=
  bindValue (readOperand op s) fun m s1 => .next (advance op ((set s1 m).setZN m))

/-- STA, STX, STY: a register through the mode, no flag (43 R253 to R255). -/
def storeFrom (reg : State → Byte) (op : Operand) (s : State) : StepResult :=
  bindValue (resolve op s) fun place s1 =>
    bindState (writePlace place (reg s1) s1) fun s2 => .next (advance op s2)

/-- TAX, TAY, TXA, TYA, TSX: copy, then SetZN (43 R256 to R260). -/
def transferZN (reg : State → Byte) (set : State → Byte → State) (s : State) : StepResult :=
  .next (advance .implied ((set s (reg s)).setZN (reg s)))

/-- 0xA9 LDA #$nn (43 R250). -/
def execLdaImm (v : Byte) (s : State) : StepResult := loadInto State.setA (.immediate v) s

/-- 0xA5 LDA $nn (43 R250). -/
def execLdaZp (z : Byte) (s : State) : StepResult := loadInto State.setA (.zeroPage z) s

/-- 0xB5 LDA $nn,X (43 R250). -/
def execLdaZpx (z : Byte) (s : State) : StepResult := loadInto State.setA (.zeroPageX z) s

/-- 0xAD LDA $nnnn (43 R250). -/
def execLdaAbs (a : Addr) (s : State) : StepResult := loadInto State.setA (.absolute a) s

/-- 0xBD LDA $nnnn,X (43 R250). -/
def execLdaAbsx (a : Addr) (s : State) : StepResult := loadInto State.setA (.absoluteX a) s

/-- 0xB9 LDA $nnnn,Y (43 R250). -/
def execLdaAbsy (a : Addr) (s : State) : StepResult := loadInto State.setA (.absoluteY a) s

/-- 0xA1 LDA ($nn,X) (43 R250). -/
def execLdaIzx (z : Byte) (s : State) : StepResult := loadInto State.setA (.indexedIndirect z) s

/-- 0xB1 LDA ($nn),Y (43 R250). -/
def execLdaIzy (z : Byte) (s : State) : StepResult := loadInto State.setA (.indirectIndexed z) s

/-- 0xA2 LDX #$nn (43 R251). -/
def execLdxImm (v : Byte) (s : State) : StepResult := loadInto State.setX (.immediate v) s

/-- 0xA6 LDX $nn (43 R251). -/
def execLdxZp (z : Byte) (s : State) : StepResult := loadInto State.setX (.zeroPage z) s

/-- 0xB6 LDX $nn,Y (43 R251). -/
def execLdxZpy (z : Byte) (s : State) : StepResult := loadInto State.setX (.zeroPageY z) s

/-- 0xAE LDX $nnnn (43 R251). -/
def execLdxAbs (a : Addr) (s : State) : StepResult := loadInto State.setX (.absolute a) s

/-- 0xBE LDX $nnnn,Y (43 R251). -/
def execLdxAbsy (a : Addr) (s : State) : StepResult := loadInto State.setX (.absoluteY a) s

/-- 0xA0 LDY #$nn (43 R252). -/
def execLdyImm (v : Byte) (s : State) : StepResult := loadInto State.setY (.immediate v) s

/-- 0xA4 LDY $nn (43 R252). -/
def execLdyZp (z : Byte) (s : State) : StepResult := loadInto State.setY (.zeroPage z) s

/-- 0xB4 LDY $nn,X (43 R252). -/
def execLdyZpx (z : Byte) (s : State) : StepResult := loadInto State.setY (.zeroPageX z) s

/-- 0xAC LDY $nnnn (43 R252). -/
def execLdyAbs (a : Addr) (s : State) : StepResult := loadInto State.setY (.absolute a) s

/-- 0xBC LDY $nnnn,X (43 R252). -/
def execLdyAbsx (a : Addr) (s : State) : StepResult := loadInto State.setY (.absoluteX a) s

/-- 0x85 STA $nn (43 R253). -/
def execStaZp (z : Byte) (s : State) : StepResult := storeFrom State.a (.zeroPage z) s

/-- 0x95 STA $nn,X (43 R253). -/
def execStaZpx (z : Byte) (s : State) : StepResult := storeFrom State.a (.zeroPageX z) s

/-- 0x8D STA $nnnn (43 R253). -/
def execStaAbs (a : Addr) (s : State) : StepResult := storeFrom State.a (.absolute a) s

/-- 0x9D STA $nnnn,X (43 R253). -/
def execStaAbsx (a : Addr) (s : State) : StepResult := storeFrom State.a (.absoluteX a) s

/-- 0x99 STA $nnnn,Y (43 R253). -/
def execStaAbsy (a : Addr) (s : State) : StepResult := storeFrom State.a (.absoluteY a) s

/-- 0x81 STA ($nn,X) (43 R253). -/
def execStaIzx (z : Byte) (s : State) : StepResult := storeFrom State.a (.indexedIndirect z) s

/-- 0x91 STA ($nn),Y (43 R253). -/
def execStaIzy (z : Byte) (s : State) : StepResult := storeFrom State.a (.indirectIndexed z) s

/-- 0x86 STX $nn (43 R254). -/
def execStxZp (z : Byte) (s : State) : StepResult := storeFrom State.x (.zeroPage z) s

/-- 0x96 STX $nn,Y (43 R254). -/
def execStxZpy (z : Byte) (s : State) : StepResult := storeFrom State.x (.zeroPageY z) s

/-- 0x8E STX $nnnn (43 R254). -/
def execStxAbs (a : Addr) (s : State) : StepResult := storeFrom State.x (.absolute a) s

/-- 0x84 STY $nn (43 R255). -/
def execStyZp (z : Byte) (s : State) : StepResult := storeFrom State.y (.zeroPage z) s

/-- 0x94 STY $nn,X (43 R255). -/
def execStyZpx (z : Byte) (s : State) : StepResult := storeFrom State.y (.zeroPageX z) s

/-- 0x8C STY $nnnn (43 R255). -/
def execStyAbs (a : Addr) (s : State) : StepResult := storeFrom State.y (.absolute a) s

/-- 0xAA TAX (43 R256). -/
def execTax (s : State) : StepResult := transferZN State.a State.setX s

/-- 0xA8 TAY (43 R257). -/
def execTay (s : State) : StepResult := transferZN State.a State.setY s

/-- 0x8A TXA (43 R258). -/
def execTxa (s : State) : StepResult := transferZN State.x State.setA s

/-- 0x98 TYA (43 R259). -/
def execTya (s : State) : StepResult := transferZN State.y State.setA s

/-- 0xBA TSX (43 R260). -/
def execTsx (s : State) : StepResult := transferZN State.sp State.setX s

/-- 0x9A TXS (43 R261): no flag. -/
def execTxs (s : State) : StepResult := .next (advance .implied (s.setSp s.x))

end Sys2Proof.Machine
end

