-- ==== Sys2Proof/Machine/Logical.lean ====
section
/-! DEFINITION. Logical instructions and BIT (42_logical_bit.md): AND, ORA, EOR, BIT.
One meaning for each row of the opcode table, over operations shared by a family. In a meaning, PC is the address of the
first operand byte (40_step_and_addressing R132). -/

namespace Sys2Proof.Machine

/-- AND, ORA, EOR: A from the logic unit, then SetZN (42 R230 to R232). -/
def logicWith (unit : Byte → Byte → Byte) (op : Operand) (s : State) : StepResult :=
  bindValue (readOperand op s) fun m s1 =>
    let r := unit s1.a m
    .next (advance op ((s1.setA r).setZN r))

/-- BIT: the flags only (42 R233). -/
def bitWith (op : Operand) (s : State) : StepResult :=
  bindValue (readOperand op s) fun m s1 => .next (advance op (s1.setFlags (s1.flags.bitTest s1.a m)))

/-- 0x29 AND #$nn (42 R230). -/
def execAndImm (v : Byte) (s : State) : StepResult := logicWith andUnit (.immediate v) s

/-- 0x25 AND $nn (42 R230). -/
def execAndZp (z : Byte) (s : State) : StepResult := logicWith andUnit (.zeroPage z) s

/-- 0x35 AND $nn,X (42 R230). -/
def execAndZpx (z : Byte) (s : State) : StepResult := logicWith andUnit (.zeroPageX z) s

/-- 0x2D AND $nnnn (42 R230). -/
def execAndAbs (a : Addr) (s : State) : StepResult := logicWith andUnit (.absolute a) s

/-- 0x3D AND $nnnn,X (42 R230). -/
def execAndAbsx (a : Addr) (s : State) : StepResult := logicWith andUnit (.absoluteX a) s

/-- 0x39 AND $nnnn,Y (42 R230). -/
def execAndAbsy (a : Addr) (s : State) : StepResult := logicWith andUnit (.absoluteY a) s

/-- 0x21 AND ($nn,X) (42 R230). -/
def execAndIzx (z : Byte) (s : State) : StepResult := logicWith andUnit (.indexedIndirect z) s

/-- 0x31 AND ($nn),Y (42 R230). -/
def execAndIzy (z : Byte) (s : State) : StepResult := logicWith andUnit (.indirectIndexed z) s

/-- 0x09 ORA #$nn (42 R231). -/
def execOraImm (v : Byte) (s : State) : StepResult := logicWith orUnit (.immediate v) s

/-- 0x05 ORA $nn (42 R231). -/
def execOraZp (z : Byte) (s : State) : StepResult := logicWith orUnit (.zeroPage z) s

/-- 0x15 ORA $nn,X (42 R231). -/
def execOraZpx (z : Byte) (s : State) : StepResult := logicWith orUnit (.zeroPageX z) s

/-- 0x0D ORA $nnnn (42 R231). -/
def execOraAbs (a : Addr) (s : State) : StepResult := logicWith orUnit (.absolute a) s

/-- 0x1D ORA $nnnn,X (42 R231). -/
def execOraAbsx (a : Addr) (s : State) : StepResult := logicWith orUnit (.absoluteX a) s

/-- 0x19 ORA $nnnn,Y (42 R231). -/
def execOraAbsy (a : Addr) (s : State) : StepResult := logicWith orUnit (.absoluteY a) s

/-- 0x01 ORA ($nn,X) (42 R231). -/
def execOraIzx (z : Byte) (s : State) : StepResult := logicWith orUnit (.indexedIndirect z) s

/-- 0x11 ORA ($nn),Y (42 R231). -/
def execOraIzy (z : Byte) (s : State) : StepResult := logicWith orUnit (.indirectIndexed z) s

/-- 0x49 EOR #$nn (42 R232). -/
def execEorImm (v : Byte) (s : State) : StepResult := logicWith xorUnit (.immediate v) s

/-- 0x45 EOR $nn (42 R232). -/
def execEorZp (z : Byte) (s : State) : StepResult := logicWith xorUnit (.zeroPage z) s

/-- 0x55 EOR $nn,X (42 R232). -/
def execEorZpx (z : Byte) (s : State) : StepResult := logicWith xorUnit (.zeroPageX z) s

/-- 0x4D EOR $nnnn (42 R232). -/
def execEorAbs (a : Addr) (s : State) : StepResult := logicWith xorUnit (.absolute a) s

/-- 0x5D EOR $nnnn,X (42 R232). -/
def execEorAbsx (a : Addr) (s : State) : StepResult := logicWith xorUnit (.absoluteX a) s

/-- 0x59 EOR $nnnn,Y (42 R232). -/
def execEorAbsy (a : Addr) (s : State) : StepResult := logicWith xorUnit (.absoluteY a) s

/-- 0x41 EOR ($nn,X) (42 R232). -/
def execEorIzx (z : Byte) (s : State) : StepResult := logicWith xorUnit (.indexedIndirect z) s

/-- 0x51 EOR ($nn),Y (42 R232). -/
def execEorIzy (z : Byte) (s : State) : StepResult := logicWith xorUnit (.indirectIndexed z) s

/-- 0x24 BIT $nn (42 R233). -/
def execBitZp (z : Byte) (s : State) : StepResult := bitWith (.zeroPage z) s

/-- 0x2C BIT $nnnn (42 R233). -/
def execBitAbs (a : Addr) (s : State) : StepResult := bitWith (.absolute a) s

end Sys2Proof.Machine
end

