-- ==== Sys2Proof/Machine/Stack.lean ====
section
/-! DEFINITION. Stack instructions (45_stack.md): PHA, PHP, PLA, PLP.
One meaning for each row of the opcode table, over operations shared by a family. In a meaning, PC is the address of the
first operand byte (40_step_and_addressing R132). -/

namespace Sys2Proof.Machine

/-- 0x48 PHA (45 R310). -/
def execPha (s : State) : StepResult := bindState (push s.a s) fun s1 => .next (advance .implied s1)

/-- 0x08 PHP (45 R311): B is set in the pushed copy only. -/
def execPhp (s : State) : StepResult := bindState (push s.flags.pushed s) fun s1 => .next (advance .implied s1)

/-- 0x68 PLA (45 R312). -/
def execPla (s : State) : StepResult :=
  bindValue (pull s) fun v s1 => .next (advance .implied ((s1.setA v).setZN v))

/-- 0x28 PLP (45 R313): B forced to 0, U to 1. -/
def execPlp (s : State) : StepResult := bindValue (pull s) fun v s1 => .next (advance .implied (s1.setP v))

end Sys2Proof.Machine
end

