-- ==== Sys2Proof/Machine/Fetch.lean ====
section
/-! DEFINITION. The fetch of one instruction from the bus (40_step_and_addressing R130): the opcode byte at PC, the table
lookup, then the operand bytes in rising order of address. -/

namespace Sys2Proof.Machine

/-- Read and decode the instruction at PC; PC is left at the address of its first operand byte (40 R130, R132). An
unassigned byte is found after its one read and before any other access (60_exceptions R403). -/
def fetch (s : State) : Result Instr :=
  bindValue (memRead s.pc s) fun op s1 =>
    let s2 := s1.setPc (s.pc + 1)
    match opcodeTemplate op with
    | none => .fault (.unknownOpcode op s.pc s2.log)
    | some (.op0 i) => .next (i, s2)
    | some (.op8 f) => bindValue (memRead s2.pc s2) fun b s3 => .next (f b, s3)
    | some (.op16 f) => bindValue (readWord s2.pc s2) fun w s3 => .next (f w, s3)

/-- Put bytes into the stores at an address and those after it, from outside (70_reset R450 step 3). -/
def State.pokeAll (s : State) (a : Addr) : List Byte → State
  | [] => s
  | b :: rest => (s.poke a b).pokeAll (a + 1) rest

end Sys2Proof.Machine
end

