-- ==== Sys2Proof/Machine/Step.lean ====
section
/-! DEFINITION. One step (40_step_and_addressing R130), and the placing of an instruction where the step fetches its
next one. -/

namespace Sys2Proof.Machine

/-- One step: a Running core fetches and executes one instruction; a Faulted core takes no further step and stays at its
error (10_state R49, 60_exceptions R405). A fault is the core going to Faulted with that record (log entry 6). -/
def step (s : State) : Host.Outcome State Fault Refusal :=
  match s.status with
  | .faulted e => .fault e
  | .running => bindValue (fetch s) exec

/-- The state with the instruction of a table word stored at PC and the two addresses after it, as the host's loader
does (70_reset R450 step 3, log entry 1). The bytes land in the store mounted there; nothing else changes. -/
def State.withFetchWord (s : State) (nbits w : Nat) : State := s.pokeAll s.pc (tableBytes nbits w)

end Sys2Proof.Machine
end

