-- ==== Sys2Proof/Machine/Launch.lean ====
section
/-! DEFINITION. What the host does with the core, as far as the spec gives it: mounting (20_memory R62, 60_exceptions
R402), construction from launch values (70_reset R450), the state a step leaves the core in, Faulted ones too
(60_exceptions R405, R406), and the end of a run (70_reset R461). -/

namespace Sys2Proof.Machine

/-- A mount needs start ≤ end ≤ 0xFFFF (20_memory R62, 92 D10). -/
def Mount.wellFormed (m : Mount) : Bool := decide (m.start ≤ m.stop) && decide (m.stop ≤ Config.topAddress)

/-- Two mounts share an address (20_memory R62). -/
def Mount.overlaps (m n : Mount) : Bool := decide (m.start ≤ n.stop) && decide (n.start ≤ m.stop)

/-- mount(start, end, read, write): adds a mount, keeps the others, refuses an overlap or a malformed range
(20_memory R62, 60_exceptions R402). -/
def State.mount (m : Mount) (s : State) : StepResult :=
  if m.wellFormed && !(s.mounts.any m.overlaps) then .next { s with mounts := s.mounts ++ [m] }
  else .fault (.mountOverlap m.start m.stop s.log)

/-- Add each mount in turn (70_reset R450 step 2). -/
def State.mountAll : List Mount → State → StepResult
  | [], s => .next s
  | m :: rest, s => bindState (s.mount m) (State.mountAll rest)

/-- Load one byte (70_reset R450 step 3). An address no mount covers stops the construction; a byte for a device is the
device's own affair (log entry 15). -/
def State.loadByte (a : Addr) (v : Byte) (s : State) : StepResult :=
  match s.mountAt a with
  | none => .fault (.unmappedAddress a .write s.log)
  | some _ => .next (s.poke a v)

/-- Load bytes in turn (70_reset R450 step 3). -/
def State.loadAll : List (Addr × Byte) → State → StepResult
  | [], s => .next s
  | (a, v) :: rest, s => bindState (s.loadByte a v) (State.loadAll rest)

/-- The launch: the parameters MOUNTS and INIT of 00_scope R8 with the Bool parameters. -/
structure Launch where
  params : Params
  mounts : List Mount
  bytes : List (Addr × Byte)
  a : Byte
  x : Byte
  y : Byte
  sp : Byte
  p : Byte
  pc : Addr
deriving DecidableEq, Repr

/-- The default launch: the reset state (00_scope R8). -/
def Launch.default : Launch where
  params := Params.default
  mounts := []
  bytes := []
  a := 0x00
  x := 0x00
  y := 0x00
  sp := 0xFD
  p := 0x24
  pc := 0x0000

/-- Construction (70_reset R450): the record with the default RAM, the mounts, the bytes, the registers. Bits 4 and 5
of P are hard-wired whatever the launch gives (10_state R45). -/
def construct (l : Launch) : StepResult :=
  bindState (State.mountAll l.mounts { State.reset with params := l.params }) fun s1 =>
    bindState (State.loadAll l.bytes s1) fun s2 =>
      .next { s2 with a := l.a, x := l.x, y := l.y, sp := l.sp, flags := Flags.ofByte l.p, pc := l.pc }

/-- The accesses made before an error, newest first. -/
def Fault.seen : Fault → List BusEvent
  | .unmappedAddress _ _ seen => seen
  | .mountOverlap _ _ seen => seen
  | .illegalModeAccess _ _ seen => seen
  | .unknownOpcode _ _ seen => seen

/-- What an access that has happened did behind its mount (20_memory R64, R77, R78): a store that takes writes holds the
written byte, a device read is one draw more. -/
def State.replay (e : BusEvent) (s : State) : State :=
  match s.mountAt e.addr with
  | none => s
  | some m =>
    match e.kind, m.kind with
    | .write, .ram | .write, .storage => s.setMem (s.mem.write (m.cell s.params e.addr) e.value)
    | .read, .device => s.countDraw
    | .read, .ram | .read, .storage | .read, .rom | .write, .rom | .write, .device => s

/-- A place of the byte list inside a RAM mount. -/
def State.isRamCell (s : State) (k : Nat) : Bool :=
  s.mounts.any fun m => m.kind == .ram && decide (m.start ≤ k) && decide (k ≤ m.stop)

/-- RAM holds these bytes and zeros, whatever it held; the other stores keep theirs. -/
def State.replaceRam (bytes : List (Addr × Byte)) (s : State) : State :=
  (bytes.filter fun b => s.kindAt b.1 == some .ram).foldr (fun b u => u.poke b.1 b.2)
    (s.setMem (s.mem.filter fun c => !s.isRamCell c.1))

/-- The core after an error raised by a step from s (60_exceptions R405, R406): the run status and the record are exact;
the accesses the step made before it have happened, so the devices have answered its reads; the registers and RAM are
free values. DESIGN CHOICE (log entry 13): a storage or rom mount counts as a device and not as RAM, so it keeps its
bytes and what the step wrote. -/
def State.afterFault (s : State) (e : Fault) : State :=
  let u := (e.seen.take (e.seen.length - s.log.length)).foldr State.replay s
  { u.replaceRam (Config.afterFaultRam u.draws) with
    a := Config.afterFaultByte u.draws 0
    x := Config.afterFaultByte u.draws 1
    y := Config.afterFaultByte u.draws 2
    sp := Config.afterFaultByte u.draws 3
    flags := Flags.ofByte (Config.afterFaultByte u.draws 4)
    pc := Config.afterFaultPc u.draws
    status := .faulted e
    log := e.seen }

/-- The error's code (60_exceptions R400). -/
def Fault.code : Fault → Nat
  | .unmappedAddress _ _ _ => 1
  | .mountOverlap _ _ _ => 2
  | .illegalModeAccess _ _ _ => 3
  | .unknownOpcode _ _ _ => 4

/-- The state one call of step leaves the core in: a Faulted core stays as it is (60_exceptions R405). -/
def successor (s : State) : State :=
  match s.status with
  | .faulted _ => s
  | .running =>
    match step s with
    | .next t => t
    | .fault e => s.afterFault e
    | .refused _ => s

/-- END_OF_RUN (00_scope R8, 70_reset R461). -/
inductive EndOfRun where
  | stepBudget (n : Nat)
  | stopAt (addr : Addr)
deriving DecidableEq, Repr

/-- How a run ends (70_reset R461). -/
inductive RunEnd where
  /-- the normal end -/
  | completed (s : State)
  /-- a step raised an error: never a normal end -/
  | failed (e : Fault)
  /-- no end within the steps looked at (log entry 14) -/
  | unfinished (s : State)
  /-- the model has no meaning for an instruction -/
  | refused (r : Refusal)
deriving DecidableEq, Repr

/-- A run of exactly n steps (70_reset R461). -/
def runBudget : Nat → State → RunEnd
  | 0, s =>
    match s.status with
    | .running => .completed s
    | .faulted e => .failed e
  | n + 1, s =>
    match step s with
    | .next t => runBudget n t
    | .fault e => .failed e
    | .refused r => .refused r

/-- A run to the first step boundary where PC = addr, looked at before that step's fetch, for at most `fuel` steps
(70_reset R461). -/
def runStopAt (addr : Addr) : Nat → State → RunEnd
  | 0, s =>
    match s.status with
    | .running => if s.pc = addr then .completed s else .unfinished s
    | .faulted e => .failed e
  | n + 1, s =>
    match s.status with
    | .faulted e => .failed e
    | .running =>
      if s.pc = addr then .completed s
      else
        match step s with
        | .next t => runStopAt addr n t
        | .fault e => .failed e
        | .refused r => .refused r

/-- A run under END_OF_RUN. The fuel bounds a StopAt run only. -/
def runUntil (e : EndOfRun) (fuel : Nat) (s : State) : RunEnd :=
  match e with
  | .stepBudget n => runBudget n s
  | .stopAt addr => runStopAt addr fuel s

end Sys2Proof.Machine
end

