-- ==== Sys2Proof/Safety.lean ====
section
/-! DEFINITION. What a good state and a safe run are, and the words the statements use: the invariant, the addresses that
are stores, the flags of a result byte, the bus accesses of a list of bytes. -/

namespace Sys2Proof.Machine

/-- The invariant of a constructed, running core: the byte list is canonical and lists no byte where no store is
mounted; mounts are well-formed and share no address (20_memory R62); the core is Running (10_state R49); every
device read has been a bus access. -/
structure Invariant (s : State) : Prop where
  memCanonical : s.mem.wf = true
  memBacked : ∀ c ∈ s.mem, ∃ m ∈ s.mounts, m.kind ≠ .device ∧ m.start ≤ c.1 ∧ c.1 ≤ m.stop
  mountsWellFormed : ∀ m ∈ s.mounts, m.wellFormed = true
  mountsDisjoint : s.mounts.Pairwise (fun m n => m.overlaps n = false)
  running : s.status = .running
  drawsCounted : s.draws ≤ s.log.length

/-- The step is safe: it completes. -/
def StepSafe (s : State) : Prop := ∃ t, step s = .next t

/-- A run of n steps is safe: none of them raises an error. -/
def RunSafe (n : Nat) (s : State) : Prop := ∃ t, runBudget n s = .completed t

/-- A store that takes writes is mounted at the address. -/
def State.storeAt (s : State) (a : Addr) : Bool :=
  match s.mountAt a with
  | none => false
  | some m => m.kind == .ram || m.kind == .storage

/-- The flags after a result byte: Z iff it is 0, N iff it is 0x80 or more, the others as before (40 R150, R151). -/
def Flags.withResult (f : Flags) (v : Byte) : Flags := { f with z := decide (v.toNat = 0), n := decide (128 ≤ v.toNat) }

/-- The reads of a list of bytes from an address on, in bus order. -/
def readEvents (a : Addr) : List Byte → List BusEvent
  | [] => []
  | b :: rest => ⟨.read, a, b⟩ :: readEvents (a + 1) rest

/-- The stores hold these bytes from an address on. -/
def State.holds (s : State) (a : Addr) : List Byte → Prop
  | [] => True
  | b :: rest => s.peek a = some b ∧ s.holds (a + 1) rest

/-- What no instruction changes: mounts, run status and parameters. -/
def SameSetup (s t : State) : Prop := t.mounts = s.mounts ∧ t.status = s.status ∧ t.params = s.params

/-- Every register and flag is as before. -/
def SameRegisters (s t : State) : Prop :=
  t.a = s.a ∧ t.x = s.x ∧ t.y = s.y ∧ t.sp = s.sp ∧ t.flags = s.flags

/-- Every byte of every store is as before. -/
def SameBytes (s t : State) : Prop := ∀ b : Addr, t.peek b = s.peek b

/-- The two reads of a zero-page pointer at z (40 R145, R146): its high byte lies at z + 1, in page zero under
ZP_POINTER_WRAP. -/
def zeroPagePointerReads (p : Params) (z : Byte) : List (AccessKind × Addr) :=
  [(.read, z.zeroExtend 16), (.read, if p.zpPointerWrap then (z + 1).zeroExtend 16 else z.zeroExtend 16 + 1)]

/-- The pointer reads of a mode (40 R144 to R146); the JMP pointer's high byte lies in the page of its low byte. -/
def State.pointerReads (s : State) : Operand → List (AccessKind × Addr)
  | .indirect p => [(.read, p), (.read, if p.toNat % 256 = 255 then p - 0xFF else p + 1)]
  | .indexedIndirect z => zeroPagePointerReads s.params (z + s.x)
  | .indirectIndexed z => zeroPagePointerReads s.params z
  | .implied | .accumulator | .immediate _ | .zeroPage _ | .zeroPageX _ | .zeroPageY _ | .relative _ | .absolute _
  | .absoluteX _ | .absoluteY _ => []

/-- Accesses of these kinds at a place: none at a place that is no byte in memory. -/
def Place.accesses : Place → List AccessKind → List (AccessKind × Addr)
  | .memory ea, kinds => kinds.map fun k => (k, ea)
  | .nothing, _ | .accumulator, _ | .constant _, _ | .target _ _, _ => []

/-- Accesses of these kinds at the effective address resolve gives; none where a pointer byte cannot be read. -/
def State.operandAccesses (s : State) (op : Operand) (kinds : List AccessKind) : List (AccessKind × Addr) :=
  match resolve op s with
  | .next (p, _) => p.accesses kinds
  | .fault _ | .refused _ => []

/-- The stack address with SP moved by n. -/
def State.stackSlot (s : State) (n : Byte) : Addr := 0x0100 + (s.sp + n).zeroExtend 16

/-- The bus accesses an instruction makes after its own bytes are read, each with its kind and address, in bus order:
the pointer reads of its mode, then those of its rule in files 41 to 47 (20_memory R69, R72; 40 R164). -/
def accessesOf (i : Instr) (s : State) : List (AccessKind × Addr) :=
  s.pointerReads i.operand ++
  match i.mnemonic with
  | .lda | .ldx | .ldy | .adc | .sbc | .and | .ora | .eor | .bit | .cmp | .cpx | .cpy =>
    s.operandAccesses i.operand [.read]
  | .sta | .stx | .sty => s.operandAccesses i.operand [.write]
  | .inc | .dec | .asl | .lsr | .rol | .ror => s.operandAccesses i.operand [.read, .write]
  | .pha | .php => [(.write, s.stackSlot 0)]
  | .pla | .plp => [(.read, s.stackSlot 1)]
  | .jsr => [(.write, s.stackSlot 0), (.write, s.stackSlot (-1))]
  | .rts => [(.read, s.stackSlot 1), (.read, s.stackSlot 2)]
  | .rti => [(.read, s.stackSlot 1), (.read, s.stackSlot 2), (.read, s.stackSlot 3)]
  | .brk => [(.write, s.stackSlot 0), (.write, s.stackSlot (-1)), (.write, s.stackSlot (-2)), (.read, 0xFFFE),
      (.read, 0xFFFF)]
  | .jmp | .bcc | .bcs | .beq | .bne | .bmi | .bpl | .bvc | .bvs | .tax | .tay | .txa | .tya | .tsx | .txs | .inx
  | .iny | .dex | .dey | .clc | .sec | .cld | .sed | .cli | .sei | .clv | .nop => []

/-- The kinds and addresses of a list of bus events, newest first, in bus order. -/
def inBusOrder (events : List BusEvent) : List (AccessKind × Addr) := events.reverse.map fun e => (e.kind, e.addr)

/-- A state with D and I forgotten, for comparing two runs that differ in them only. -/
def State.withoutDI (s : State) : State := { s with flags := { s.flags with d := false, i := false } }

/-- An outcome with D and I of its state forgotten. -/
def outcomeWithoutDI : StepResult → StepResult
  | .next t => .next t.withoutDI
  | .fault e => .fault e
  | .refused r => .refused r

/-- The default RAM stands under the whole stack page (20_memory R74). -/
def State.stackInRam (s : State) : Prop := ∀ n : Byte, s.mountAt (0x0100 + n.zeroExtend 16) = some ramMount

/-- The 105 unassigned opcode bytes, as 30_encoding R111 lists them. -/
def unassignedBytes : List Byte :=
  [0x02, 0x03, 0x04, 0x07, 0x0B, 0x0C, 0x0F, 0x12, 0x13, 0x14, 0x17, 0x1A, 0x1B, 0x1C, 0x1F] ++
  [0x22, 0x23, 0x27, 0x2B, 0x2F, 0x32, 0x33, 0x34, 0x37, 0x3A, 0x3B, 0x3C, 0x3F] ++
  [0x42, 0x43, 0x44, 0x47, 0x4B, 0x4F, 0x52, 0x53, 0x54, 0x57, 0x5A, 0x5B, 0x5C, 0x5F] ++
  [0x62, 0x63, 0x64, 0x67, 0x6B, 0x6F, 0x72, 0x73, 0x74, 0x77, 0x7A, 0x7B, 0x7C, 0x7F] ++
  [0x80, 0x82, 0x83, 0x87, 0x89, 0x8B, 0x8F, 0x92, 0x93, 0x97, 0x9B, 0x9C, 0x9E, 0x9F] ++
  [0xA3, 0xA7, 0xAB, 0xAF, 0xB2, 0xB3, 0xB7, 0xBB, 0xBF] ++
  [0xC2, 0xC3, 0xC7, 0xCB, 0xCF, 0xD2, 0xD3, 0xD4, 0xD7, 0xDA, 0xDB, 0xDC, 0xDF] ++
  [0xE2, 0xE3, 0xE7, 0xEB, 0xEF, 0xF2, 0xF3, 0xF4, 0xF7, 0xFA, 0xFB, 0xFC, 0xFF]

end Sys2Proof.Machine
end

