-- ==== Sys2Proof/Certificates/Slice0/Obligations.lean ====
section
/-! DEFINITION. The statements for the provers. In all of them exec runs with PC at the address of the first operand
byte (40_step_and_addressing R132), the log of bus accesses is newest first, and a statement about every state holds for
every value of the parameters BRK_SETS_I, ZP_POINTER_WRAP and RAM_MIRROR (00_scope R8). -/

open Sys2Proof Sys2Proof.Machine

/-- Decoding the encoder's bytes gives the instruction back and leaves the bytes after it (30_encoding R100 to R107).
-/
def Obligations.DecodeEncodeRoundTrip : Prop :=
  ∀ (i : Instr) (rest : List Byte), i.WellFormed → decode (encode i ++ rest) = .ok i rest

/-- The other direction: whatever decodes to an instruction begins with its encoding (30_encoding R102, R109). -/
def Obligations.EncodeDecodeRoundTrip : Prop :=
  ∀ (bs rest : List Byte) (i : Instr), decode bs = .ok i rest → bs = encode i ++ rest ∧ i.WellFormed

/-- The decoder names an unknown opcode exactly on the 105 bytes of 30_encoding R111 (general knowledge in the spec,
log entry 17), and reads nothing after it (R112). -/
def Obligations.DecoderRejectsExactlyTheUnassignedBytes : Prop :=
  ∀ (op : Byte) (rest : List Byte), decode (op :: rest) = .unknownOpcode op ↔ op ∈ unassignedBytes

/-- Sanity: words taken from 30_encoding R109 (general knowledge in the spec, log entry 17) and the vectors of
95_test_vectors. -/
def Obligations.WrittenWordsDecode : Prop :=
  decode [0xA9, 0x05] = .ok (.ldaImm 0x05) [] ∧ decode [0x85, 0x10] = .ok (.staZp 0x10) [] ∧
    decode [0x0A] = .ok .aslAcc [] ∧ decode [0x20, 0x34, 0x12] = .ok (.jsr 0x1234) [] ∧
    decode [0xE9, 0xF0] = .ok (.sbcImm 0xF0) [] ∧ decode [0x6C, 0xFF, 0x01] = .ok (.jmpInd 0x01FF) [] ∧
    decode [0xA1, 0x02] = .ok (.ldaIzx 0x02) [] ∧ decode [0xB1, 0x02] = .ok (.ldaIzy 0x02) [] ∧
    decode [0x96, 0x10] = .ok (.stxZpy 0x10) [] ∧ decode [0x24, 0x10] = .ok (.bitZp 0x10) [] ∧
    decode [0xD0, 0xFE] = .ok (.bne 0xFE) [] ∧ decode [0x28] = .ok .plp [] ∧ decode [0x00] = .ok .brk []

/-- 30_encoding R100, with the operand sizes of R101. -/
def Obligations.OpcodeSelectsFormAndLength : Prop :=
  (∀ i : Instr, (encode i).length = 1 + i.mode.size ∧ (encode i)[0]? = some i.opcode ∧
      (i.mode ∈ [Mode.implied, .accumulator] → (encode i).length = 1) ∧
      (i.mode ∈ [Mode.immediate, .zeroPage, .zeroPageX, .zeroPageY, .relative, .indexedIndirect, .indirectIndexed] →
        (encode i).length = 2) ∧
      (i.mode ∈ [Mode.absolute, .absoluteX, .absoluteY, .indirect] → (encode i).length = 3)) ∧
    ∀ i j : Instr, i.opcode = j.opcode → i.mnemonic = j.mnemonic ∧ i.mode = j.mode

/-- The link from the per-instruction statements to a run (40_step_and_addressing R130, R132; 20_memory R72). -/
def Obligations.StepRunsDecodedInstruction : Prop :=
  ∀ (s : State) (bs : List Byte) (i : Instr), s.status = .running → decode bs = .ok i [] → i.WellFormed →
    s.holds s.pc bs →
    step s = exec i { s with pc := s.pc + 1, log := (readEvents s.pc bs).reverse ++ s.log }

/-- 60_exceptions R403 (the fetch before the check is the spec's decision D16; the log is the model's, log entry 7).
-/
def Obligations.UnassignedOpcodeFaults : Prop :=
  ∀ (s s1 : State) (op : Byte), s.status = .running → memRead s.pc s = .next (op, s1) → op ∈ unassignedBytes →
    step s = .fault (.unknownOpcode op s.pc (⟨.read, s.pc, op⟩ :: s.log))

/-- The order of 60_exceptions R407 over the accesses R401 names; in particular a read-modify-write whose read raises
writes nothing (44 R280). accessesOf is the table of the accesses (Sys2Proof/Safety.lean; AccessesAreExactlyTheRules);
the log in the fault is the model's (log entry 7). -/
def Obligations.FetchFromUnmappedFaults : Prop :=
  (∀ s : State, s.status = .running →
      (s.mountAt s.pc = none → step s = .fault (.unmappedAddress s.pc .read s.log)) ∧
      ∀ (op : Byte) (s1 : State) (i : Instr), memRead s.pc s = .next (op, s1) → op = i.opcode →
        (1 ≤ i.mode.size → s.mountAt (s.pc + 1) = none →
          step s = .fault (.unmappedAddress (s.pc + 1) .read (⟨.read, s.pc, op⟩ :: s.log))) ∧
        ∀ (b : Byte) (s2 : State), i.mode.size = 2 → memRead (s.pc + 1) s1 = .next (b, s2) →
          s.mountAt (s.pc + 2) = none →
          step s =
            .fault (.unmappedAddress (s.pc + 2) .read (⟨.read, s.pc + 1, b⟩ :: ⟨.read, s.pc, op⟩ :: s.log))) ∧
    ∀ (i : Instr) (s : State) (before after : List (AccessKind × Addr)) (k : AccessKind) (a : Addr),
      accessesOf i s = before ++ (k, a) :: after → (∀ c ∈ before, (s.mountAt c.2).isSome = true) →
      s.mountAt a = none →
      ∃ made, exec i s = .fault (.unmappedAddress a k (made ++ s.log)) ∧ inBusOrder made = before

/-- 60_exceptions R405 and R406: the record, the run status and the accesses made before the error are the exact part of
R406, the log that holds them being the model's (log entry 7). MODEL'S CHOICE (log entry 13): that a storage mount holds
after the error what the failing step wrote to it and else what it held, and that a rom keeps its bytes, counts such a
mount as a device and not as RAM, which R406 does not say. successor is the model's name for the state a step leaves
(log entry 13), the kinds of further mounts are log entry 4, the draw counter is log entry 3. -/
def Obligations.ErrorIsTerminalAndExact : Prop :=
  (∀ (s : State) (e : Fault), s.status = .faulted e → step s = .fault e ∧ successor s = s) ∧
    ∀ (s : State) (e : Fault), s.status = .running → step s = .fault e →
      (successor s).status = .faulted e ∧ (successor s).mounts = s.mounts ∧ (successor s).params = s.params ∧
      (successor s).log = e.seen ∧
      ∃ made, e.seen = made ++ s.log ∧
        (successor s).draws = s.draws + made.countP (fun c => c.kind == .read && s.kindAt c.addr == some .device) ∧
        (Invariant s → (successor s).mem.wf = true ∧ ∀ b : Addr,
          (s.kindAt b = some .rom → (successor s).peek b = s.peek b) ∧
          (s.kindAt b = some .storage → (successor s).peek b =
            match made.find? (fun c => c.kind == .write && c.addr == b) with
            | some c => some c.value
            | none => s.peek b))

/-- Every instruction has a meaning (40_step_and_addressing R130; 95_test_vectors L1.1 item 3). -/
def Obligations.StepNeverRefuses : Prop :=
  (∀ (i : Instr) (s : State) (r : Refusal), exec i s ≠ .refused r) ∧ ∀ (s : State) (r : Refusal), step s ≠ .refused r

/-- The whole-machine part of 60_exceptions R400 to R404: codes 2 and 3 are unreachable from any program. -/
def Obligations.StepRaisesOnlyTwoErrors : Prop :=
  ∀ (s : State) (e : Fault), s.status = .running → step s = .fault e →
    (∃ a k seen, e = .unmappedAddress a k seen ∧ s.mountAt a = none) ∨
      ∃ op seen, e = .unknownOpcode op s.pc seen ∧ op ∈ unassignedBytes

/-- 20_memory R63. A device's byte is a free value (log entry 3): the statement holds whatever it is. That a storage
or rom mount answers its listed byte is the model's choice of DEVICE (log entry 4), and what it answers where nothing
was loaded is log entry 5; R78 leaves both open. -/
def Obligations.BusReadRoutesToMount : Prop :=
  ∀ (s : State) (a : Addr), s.mounts.Pairwise (fun m n => m.overlaps n = false) →
    (∀ m ∈ s.mounts, m.start ≤ a.toNat → a.toNat ≤ m.stop →
      (m.kind = .device → memRead a s = .next (Config.deviceByte s.draws (a.toNat - m.start),
        { s with log := ⟨.read, a, Config.deviceByte s.draws (a.toNat - m.start)⟩ :: s.log, draws := s.draws + 1 })) ∧
      (m.kind ≠ .device → ∃ v, s.peek a = some v ∧ v = s.mem.read (m.cell s.params a) ∧
        memRead a s = .next (v, { s with log := ⟨.read, a, v⟩ :: s.log }))) ∧
    ((∀ m ∈ s.mounts, ¬(m.start ≤ a.toNat ∧ a.toNat ≤ m.stop)) →
      memRead a s = .fault (.unmappedAddress a .read s.log))

/-- 20_memory R64 (which mounts take a write is the parameter DEVICE, log entry 4). -/
def Obligations.BusWriteRoutesToMount : Prop :=
  ∀ (s : State) (a : Addr) (v : Byte), s.mounts.Pairwise (fun m n => m.overlaps n = false) →
    (∀ m ∈ s.mounts, m.start ≤ a.toNat → a.toNat ≤ m.stop →
      ∃ t, memWrite a v s = .next t ∧ t = { s with log := ⟨.write, a, v⟩ :: s.log, mem := t.mem } ∧
        (m.kind = .ram ∨ m.kind = .storage → t.peek a = some v) ∧
        (m.kind = .rom ∨ m.kind = .device → t.mem = s.mem)) ∧
    ((∀ m ∈ s.mounts, ¬(m.start ≤ a.toNat ∧ a.toNat ≤ m.stop)) →
      memWrite a v s = .fault (.unmappedAddress a .write s.log))

/-- 20_memory R76 (which the spec derives) and R77; the further stores are log entry 4. -/
def Obligations.WrittenByteReadsBack : Prop :=
  (∀ (s : State) (a : Addr), s.mountAt a = some ramMount →
      s.cellAt a = some (if s.params.ramMirror then (a &&& 0x07FF).toNat else a.toNat)) ∧
    (∀ (s t : State) (a : Addr) (v : Byte), memWrite a v s = .next t → s.storeAt a = true →
      ∀ b : Addr, (s.cellAt b = s.cellAt a → memRead b t = .next (v, { t with log := ⟨.read, b, v⟩ :: t.log })) ∧
        (s.cellAt b ≠ s.cellAt a → t.peek b = s.peek b)) ∧
    ∀ a : Addr, a.toNat ≤ 0x1FFF → State.reset.peek a = some 0

/-- 20_memory R65 (the case 0xFFFF is the spec's own derivation). -/
def Obligations.ReadWordIsLittleEndian : Prop :=
  (∀ (s s1 s2 : State) (a : Addr) (lo hi : Byte), memRead a s = .next (lo, s1) → memRead (a + 1) s1 = .next (hi, s2) →
      readWord a s = .next (BitVec.ofNat 16 (hi.toNat * 256 + lo.toNat), s2)) ∧
    (∀ (s : State) (a : Addr) (e : Fault), memRead a s = .fault e → readWord a s = .fault e) ∧
    (0xFFFF : Addr) + 1 = 0x0000

/-- 20_memory R62 and 60_exceptions R402; that a malformed range is refused is the spec's decision D10. For a refused
mount with a bound above 0xFFFF, which the (u16, u16) record of R400 cannot hold, the record (start, end) as unbounded
numbers is the model's choice (log entry 18); the log in the fault is the model's (log entry 7). -/
def Obligations.MountKeepsMountsApart : Prop :=
  ∀ (s : State) (m : Mount), (∀ n ∈ s.mounts, n.wellFormed = true) →
    s.mounts.Pairwise (fun p q => p.overlaps q = false) →
    (m.start ≤ m.stop → m.stop ≤ 0xFFFF →
      (∀ n ∈ s.mounts, ¬∃ a, n.start ≤ a ∧ a ≤ n.stop ∧ m.start ≤ a ∧ a ≤ m.stop) →
      ∃ t, s.mount m = .next t ∧ t = { s with mounts := s.mounts ++ [m] } ∧
        (∀ n ∈ t.mounts, n.wellFormed = true) ∧ t.mounts.Pairwise (fun p q => p.overlaps q = false)) ∧
    (m.stop < m.start ∨ 0xFFFF < m.stop ∨ (∃ n ∈ s.mounts, ∃ a, n.start ≤ a ∧ a ≤ n.stop ∧ m.start ≤ a ∧ a ≤ m.stop) →
      s.mount m = .fault (.mountOverlap m.start m.stop s.log))

/-- The effective addresses of 40_step_and_addressing R134 to R143 (the operand bytes are read by the fetch, log entry
8). -/
def Obligations.DirectModesResolve : Prop :=
  ∀ (s : State) (z d v : Byte) (a : Addr),
    resolve .implied s = .next (.nothing, s) ∧ resolve .accumulator s = .next (.accumulator, s) ∧
    resolve (.immediate v) s = .next (.constant v, s) ∧
    resolve (.zeroPage z) s = .next (.memory (BitVec.ofNat 16 z.toNat), s) ∧
    resolve (.zeroPageX z) s = .next (.memory (BitVec.ofNat 16 ((z.toNat + s.x.toNat) % 256)), s) ∧
    resolve (.zeroPageY z) s = .next (.memory (BitVec.ofNat 16 ((z.toNat + s.y.toNat) % 256)), s) ∧
    resolve (.absolute a) s = .next (.memory a, s) ∧
    resolve (.absoluteX a) s = .next (.memory (BitVec.ofNat 16 (a.toNat + s.x.toNat)), s) ∧
    resolve (.absoluteY a) s = .next (.memory (BitVec.ofNat 16 (a.toNat + s.y.toNat)), s) ∧
    resolve (.relative d) s = .next (.target .relative
      (BitVec.ofNat 16 (s.pc.toNat + 1 + (if d.toNat < 128 then d.toNat else d.toNat + 0xFF00))), s)

/-- 40_step_and_addressing R145, R146 and the second part of R458, for both values of the parameter (the operand byte
is read by the fetch). -/
def Obligations.ZeroPagePointersResolve : Prop :=
  ∀ (s s1 s2 : State) (z lo hi : Byte),
    let next := fun n : Nat => BitVec.ofNat 16 (if s.params.zpPointerWrap then (n + 1) % 256 else n + 1)
    (memRead (BitVec.ofNat 16 ((z.toNat + s.x.toNat) % 256)) s = .next (lo, s1) →
      memRead (next ((z.toNat + s.x.toNat) % 256)) s1 = .next (hi, s2) →
      resolve (.indexedIndirect z) s = .next (.memory (BitVec.ofNat 16 (hi.toNat * 256 + lo.toNat)), s2)) ∧
    (memRead (BitVec.ofNat 16 z.toNat) s = .next (lo, s1) → memRead (next z.toNat) s1 = .next (hi, s2) →
      resolve (.indirectIndexed z) s =
        .next (.memory (BitVec.ofNat 16 (hi.toNat * 256 + lo.toNat + s.y.toNat)), s2))

/-- The tables of 40_step_and_addressing R147 and R148, and 60_exceptions R404. R147 lists one read for an immediate
operand: the fetch has made it, so readPlace of the byte makes no access (log entry 8). -/
def Obligations.ModeReadAndWriteSteps : Prop :=
  ∀ (s : State) (v w : Byte) (ea : Addr) (m : Mode),
    readPlace .accumulator s = .next (s.a, s) ∧ readPlace (.constant v) s = .next (v, s) ∧
    readPlace (.memory ea) s = memRead ea s ∧
    writePlace .accumulator v s = .next { s with a := v } ∧ writePlace (.memory ea) v s = memWrite ea v s ∧
    readPlace .nothing s = .fault (.illegalModeAccess .implied .read s.log) ∧
    readPlace (.target m ea) s = .fault (.illegalModeAccess m .read s.log) ∧
    writePlace .nothing v s = .fault (.illegalModeAccess .implied .write s.log) ∧
    writePlace (.constant w) v s = .fault (.illegalModeAccess .immediate .write s.log) ∧
    writePlace (.target m ea) v s = .fault (.illegalModeAccess m .write s.log)

/-- 43 R250 to R252. -/
def Obligations.LoadsCompleteWithResult : Prop :=
  ∀ (i : Instr) (s s1 : State) (m : Byte), readOperand i.operand s = .next (m, s1) →
    (i.mnemonic = .lda →
      exec i s = .next { s1 with a := m, flags := s1.flags.withResult m, pc := s1.pc + BitVec.ofNat 16 i.mode.size }) ∧
    (i.mnemonic = .ldx →
      exec i s = .next { s1 with x := m, flags := s1.flags.withResult m, pc := s1.pc + BitVec.ofNat 16 i.mode.size }) ∧
    (i.mnemonic = .ldy →
      exec i s = .next { s1 with y := m, flags := s1.flags.withResult m, pc := s1.pc + BitVec.ofNat 16 i.mode.size })

/-- 43 R253 to R255. -/
def Obligations.StoresCompleteWithResult : Prop :=
  ∀ (i : Instr) (s s1 t : State) (ea : Addr), resolve i.operand s = .next (.memory ea, s1) →
    (i.mnemonic = .sta → memWrite ea s.a s1 = .next t →
      exec i s = .next { t with pc := s.pc + BitVec.ofNat 16 i.mode.size }) ∧
    (i.mnemonic = .stx → memWrite ea s.x s1 = .next t →
      exec i s = .next { t with pc := s.pc + BitVec.ofNat 16 i.mode.size }) ∧
    (i.mnemonic = .sty → memWrite ea s.y s1 = .next t →
      exec i s = .next { t with pc := s.pc + BitVec.ofNat 16 i.mode.size })

/-- 43 R256 to R261. -/
def Obligations.TransfersCompleteWithResult : Prop :=
  ∀ s : State,
    exec .tax s = .next { s with x := s.a, flags := s.flags.withResult s.a } ∧
    exec .tay s = .next { s with y := s.a, flags := s.flags.withResult s.a } ∧
    exec .txa s = .next { s with a := s.x, flags := s.flags.withResult s.x } ∧
    exec .tya s = .next { s with a := s.y, flags := s.flags.withResult s.y } ∧
    exec .tsx s = .next { s with x := s.sp, flags := s.flags.withResult s.sp } ∧
    exec .txs s = .next { s with sp := s.x }

/-- 41 R200 to R202. -/
def Obligations.ComparesCompleteWithFlags : Prop :=
  ∀ (i : Instr) (s s1 : State) (m : Byte), readOperand i.operand s = .next (m, s1) →
    let cmp := fun r : Byte => { s1.flags with
      c := decide (m.toNat ≤ r.toNat), z := decide (r.toNat = m.toNat),
      n := decide (128 ≤ (r.toNat + 256 - m.toNat) % 256) }
    (i.mnemonic = .cmp → exec i s = .next { s1 with flags := cmp s.a, pc := s1.pc + BitVec.ofNat 16 i.mode.size }) ∧
    (i.mnemonic = .cpx → exec i s = .next { s1 with flags := cmp s.x, pc := s1.pc + BitVec.ofNat 16 i.mode.size }) ∧
    (i.mnemonic = .cpy → exec i s = .next { s1 with flags := cmp s.y, pc := s1.pc + BitVec.ofNat 16 i.mode.size })

/-- 41 R203 (the carry is the ninth bit: 90_conflicts C1). -/
def Obligations.AdcCompletesWithResult : Prop :=
  ∀ (i : Instr) (s s1 : State) (m : Byte), i.mnemonic = .adc → readOperand i.operand s = .next (m, s1) →
    let sum := s.a.toNat + m.toNat + (if s.flags.c then 1 else 0)
    let r : Byte := BitVec.ofNat 8 sum
    exec i s = .next { s1 with
      a := r,
      flags := { s1.flags.withResult r with
        c := decide (256 ≤ sum), v := ((s.a ^^^ r) &&& (m ^^^ r) &&& 0x80) != 0 },
      pc := s1.pc + BitVec.ofNat 16 i.mode.size }

/-- 41 R204 (the carry is the canonical one: 90_conflicts C2). -/
def Obligations.SbcCompletesWithResult : Prop :=
  ∀ (i : Instr) (s s1 : State) (m : Byte), i.mnemonic = .sbc → readOperand i.operand s = .next (m, s1) →
    let borrow := m.toNat + (if s.flags.c then 0 else 1)
    let r : Byte := BitVec.ofNat 8 (s.a.toNat + 256 - borrow)
    exec i s = .next { s1 with
      a := r,
      flags := { s1.flags.withResult r with
        c := decide (borrow ≤ s.a.toNat), v := ((s.a ^^^ m) &&& (s.a ^^^ r) &&& 0x80) != 0 },
      pc := s1.pc + BitVec.ofNat 16 i.mode.size }

/-- The two's-complement reading of the overflow tests of 40_step_and_addressing R152 and R153. -/
def Obligations.OverflowIsSignedOverflow : Prop :=
  ∀ (a b : Byte) (c : Bool),
    ((addC a b c).overflow = true ↔
      a.toInt + b.toInt + (if c then 1 else 0) < -128 ∨ 127 < a.toInt + b.toInt + (if c then 1 else 0)) ∧
    ((subC a b c).overflow = true ↔
      a.toInt - b.toInt - (if c then 0 else 1) < -128 ∨ 127 < a.toInt - b.toInt - (if c then 0 else 1))

/-- The identity 40_step_and_addressing R153 derives. -/
def Obligations.SubtractIsAddOfComplement : Prop :=
  ∀ (a b : Byte) (c : Bool), subC a b c = addC a (~~~b) c

/-- 42 R230 to R232. -/
def Obligations.LogicCompletesWithResult : Prop :=
  ∀ (i : Instr) (s s1 : State) (m : Byte), readOperand i.operand s = .next (m, s1) →
    (i.mnemonic = .and →
      exec i s = .next { s1 with
        a := s.a &&& m, flags := s1.flags.withResult (s.a &&& m), pc := s1.pc + BitVec.ofNat 16 i.mode.size }) ∧
    (i.mnemonic = .ora →
      exec i s = .next { s1 with
        a := s.a ||| m, flags := s1.flags.withResult (s.a ||| m), pc := s1.pc + BitVec.ofNat 16 i.mode.size }) ∧
    (i.mnemonic = .eor →
      exec i s = .next { s1 with
        a := s.a ^^^ m, flags := s1.flags.withResult (s.a ^^^ m), pc := s1.pc + BitVec.ofNat 16 i.mode.size })

/-- 42 R233. -/
def Obligations.BitCompletesWithFlags : Prop :=
  ∀ (i : Instr) (s s1 : State) (m : Byte), i.mnemonic = .bit → readOperand i.operand s = .next (m, s1) →
    exec i s = .next { s1 with
      flags := { s1.flags with
        z := decide ((s.a &&& m).toNat = 0), n := decide (128 ≤ m.toNat), v := decide (64 ≤ m.toNat % 128) },
      pc := s1.pc + BitVec.ofNat 16 i.mode.size }

/-- 44 R280, R281. -/
def Obligations.IncDecMemoryComplete : Prop :=
  ∀ (i : Instr) (s s1 s2 t : State) (ea : Addr) (m : Byte), resolve i.operand s = .next (.memory ea, s1) →
    memRead ea s1 = .next (m, s2) →
    (i.mnemonic = .inc → memWrite ea (BitVec.ofNat 8 (m.toNat + 1)) s2 = .next t →
      exec i s = .next { t with
        flags := s.flags.withResult (BitVec.ofNat 8 (m.toNat + 1)), pc := s.pc + BitVec.ofNat 16 i.mode.size }) ∧
    (i.mnemonic = .dec → memWrite ea (BitVec.ofNat 8 (m.toNat + 255)) s2 = .next t →
      exec i s = .next { t with
        flags := s.flags.withResult (BitVec.ofNat 8 (m.toNat + 255)), pc := s.pc + BitVec.ofNat 16 i.mode.size })

/-- 44 R282 to R285. -/
def Obligations.IncDecRegistersComplete : Prop :=
  ∀ s : State,
    exec .inx s = .next { s with x := s.x + 1, flags := s.flags.withResult (s.x + 1) } ∧
    exec .iny s = .next { s with y := s.y + 1, flags := s.flags.withResult (s.y + 1) } ∧
    exec .dex s = .next { s with x := s.x - 1, flags := s.flags.withResult (s.x - 1) } ∧
    exec .dey s = .next { s with y := s.y - 1, flags := s.flags.withResult (s.y - 1) }

/-- The accumulator form of 44 R286 to R289. -/
def Obligations.AccumulatorShiftsComplete : Prop :=
  ∀ (s : State) (x : Byte), x = s.a →
    let asl := (BitVec.ofNat 8 (2 * x.toNat), decide (128 ≤ x.toNat))
    let lsr := (BitVec.ofNat 8 (x.toNat / 2), decide (x.toNat % 2 = 1))
    let rol := (BitVec.ofNat 8 (2 * x.toNat + (if s.flags.c then 1 else 0)), decide (128 ≤ x.toNat))
    let ror := (BitVec.ofNat 8 (x.toNat / 2 + (if s.flags.c then 128 else 0)), decide (x.toNat % 2 = 1))
    let done := fun r : Byte × Bool => { s with a := r.1, flags := { s.flags.withResult r.1 with c := r.2 } }
    exec .aslAcc s = .next (done asl) ∧ exec .lsrAcc s = .next (done lsr) ∧
    exec .rolAcc s = .next (done rol) ∧ exec .rorAcc s = .next (done ror)

/-- The memory form of 44 R286 to R289. -/
def Obligations.MemoryShiftsComplete : Prop :=
  ∀ (i : Instr) (s s1 s2 t : State) (ea : Addr) (x : Byte), resolve i.operand s = .next (.memory ea, s1) →
    memRead ea s1 = .next (x, s2) →
    let asl := (BitVec.ofNat 8 (2 * x.toNat), decide (128 ≤ x.toNat))
    let lsr := (BitVec.ofNat 8 (x.toNat / 2), decide (x.toNat % 2 = 1))
    let rol := (BitVec.ofNat 8 (2 * x.toNat + (if s.flags.c then 1 else 0)), decide (128 ≤ x.toNat))
    let ror := (BitVec.ofNat 8 (x.toNat / 2 + (if s.flags.c then 128 else 0)), decide (x.toNat % 2 = 1))
    let done := fun r : Byte × Bool => { t with
      flags := { s.flags.withResult r.1 with c := r.2 }, pc := s.pc + BitVec.ofNat 16 i.mode.size }
    (i.mnemonic = .asl → memWrite ea asl.1 s2 = .next t → exec i s = .next (done asl)) ∧
    (i.mnemonic = .lsr → memWrite ea lsr.1 s2 = .next t → exec i s = .next (done lsr)) ∧
    (i.mnemonic = .rol → memWrite ea rol.1 s2 = .next t → exec i s = .next (done rol)) ∧
    (i.mnemonic = .ror → memWrite ea ror.1 s2 = .next t → exec i s = .next (done ror))

/-- 45 R310, R311. -/
def Obligations.PushesCompleteWithResult : Prop :=
  ∀ s t : State,
    (memWrite (0x0100 + s.sp.zeroExtend 16) s.a s = .next t → exec .pha s = .next { t with sp := s.sp - 1 }) ∧
    (memWrite (0x0100 + s.sp.zeroExtend 16) (s.p ||| 0x10) s = .next t →
      exec .php s = .next { t with sp := s.sp - 1 }) ∧
    (s.p ||| 0x10) &&& 0x30 = 0x30

/-- 45 R312 and R313 (the round trips are another statement). -/
def Obligations.PullsCompleteWithResult : Prop :=
  ∀ (s s1 : State) (v : Byte),
    memRead (0x0100 + (s.sp + 1).zeroExtend 16) { s with sp := s.sp + 1 } = .next (v, s1) →
    exec .pla s = .next { s1 with a := v, flags := s1.flags.withResult v } ∧
    ∃ f : Flags, exec .plp s = .next { s1 with flags := f } ∧ f.toByte = (v &&& 0xEF) ||| 0x20

/-- 46 R330 (absolute form) and R331. -/
def Obligations.JumpsComplete : Prop :=
  ∀ (s s1 s2 : State) (a : Addr),
    exec (.jmpAbs a) s = .next { s with pc := a } ∧
    (memWrite (0x0100 + s.sp.zeroExtend 16) ((s.pc + 1).extractLsb' 8 8) s = .next s1 →
      memWrite (0x0100 + (s.sp - 1).zeroExtend 16) ((s.pc + 1).extractLsb' 0 8) { s1 with sp := s.sp - 1 } = .next s2 →
      exec (.jsr a) s = .next { s2 with sp := s.sp - 2, pc := a })

/-- 70_reset R456 with 40_step_and_addressing R144 and 46 R330. -/
def Obligations.IndirectJumpWrapsInPage : Prop :=
  ∀ (s s1 s2 : State) (p : Addr) (lo hi : Byte), memRead p s = .next (lo, s1) →
    memRead (if p.toNat % 256 = 255 then p - 0xFF else p + 1) s1 = .next (hi, s2) →
    exec (.jmpInd p) s = .next { s2 with pc := BitVec.ofNat 16 (hi.toNat * 256 + lo.toNat) }

/-- 46 R332. -/
def Obligations.RtsCompletesWithResult : Prop :=
  ∀ (s s1 s2 : State) (lo hi : Byte),
    memRead (0x0100 + (s.sp + 1).zeroExtend 16) { s with sp := s.sp + 1 } = .next (lo, s1) →
    memRead (0x0100 + (s.sp + 2).zeroExtend 16) { s1 with sp := s.sp + 2 } = .next (hi, s2) →
    exec .rts s = .next { s2 with pc := BitVec.ofNat 16 (hi.toNat * 256 + lo.toNat + 1) }

/-- 46 R333 and 60_exceptions R411. -/
def Obligations.RtiCompletesWithResult : Prop :=
  ∀ (s s1 s2 s3 : State) (v lo hi : Byte),
    memRead (0x0100 + (s.sp + 1).zeroExtend 16) { s with sp := s.sp + 1 } = .next (v, s1) →
    memRead (0x0100 + (s.sp + 2).zeroExtend 16)
      { s1 with sp := s.sp + 2, flags := Flags.ofByte v } = .next (lo, s2) →
    memRead (0x0100 + (s.sp + 3).zeroExtend 16) { s2 with sp := s.sp + 3 } = .next (hi, s3) →
    exec .rti s = .next { s3 with pc := BitVec.ofNat 16 (hi.toNat * 256 + lo.toNat) } ∧
      s3.p = (v &&& 0xEF) ||| 0x20

/-- 46 R334 to R342 (which flag and value each branch tests is general knowledge in the spec, log entry 17; resolving
a branch not taken is its decision D6). -/
def Obligations.BranchesComplete : Prop :=
  ∀ (s : State) (d : Byte),
    let go := fun taken : Bool => { s with
      pc := BitVec.ofNat 16 (s.pc.toNat + 1 +
        (if taken then (if d.toNat < 128 then d.toNat else d.toNat + 0xFF00) else 0)) }
    exec (.bcc d) s = .next (go (!s.flags.c)) ∧ exec (.bcs d) s = .next (go s.flags.c) ∧
    exec (.beq d) s = .next (go s.flags.z) ∧ exec (.bne d) s = .next (go (!s.flags.z)) ∧
    exec (.bmi d) s = .next (go s.flags.n) ∧ exec (.bpl d) s = .next (go (!s.flags.n)) ∧
    exec (.bvc d) s = .next (go (!s.flags.v)) ∧ exec (.bvs d) s = .next (go s.flags.v)

/-- 47 R360 to R367. -/
def Obligations.FlagInstructionsComplete : Prop :=
  ∀ s : State,
    exec .clc s = .next { s with flags := { s.flags with c := false } } ∧
    exec .sec s = .next { s with flags := { s.flags with c := true } } ∧
    exec .cld s = .next { s with flags := { s.flags with d := false } } ∧
    exec .sed s = .next { s with flags := { s.flags with d := true } } ∧
    exec .cli s = .next { s with flags := { s.flags with i := false } } ∧
    exec .sei s = .next { s with flags := { s.flags with i := true } } ∧
    exec .clv s = .next { s with flags := { s.flags with v := false } } ∧
    exec .nop s = .next s

/-- 47 R368 and 60_exceptions R409, for both values of the parameter (BRK_SETS_I is the spec's decision D2). -/
def Obligations.BrkTakesTheTrap : Prop :=
  ∀ s s1 s2 s3 : State,
    memWrite (0x0100 + s.sp.zeroExtend 16) ((s.pc + 1).extractLsb' 8 8) s = .next s1 →
    memWrite (0x0100 + (s.sp - 1).zeroExtend 16) ((s.pc + 1).extractLsb' 0 8) { s1 with sp := s.sp - 1 } = .next s2 →
    memWrite (0x0100 + (s.sp - 2).zeroExtend 16) (s.p ||| 0x10) { s2 with sp := s.sp - 2 } = .next s3 →
    let frame : State := { s3 with
      sp := s.sp - 3, flags := { s.flags with i := if s.params.brkSetsI then true else s.flags.i } }
    (∀ (s4 s5 : State) (lo hi : Byte), memRead 0xFFFE frame = .next (lo, s4) → memRead 0xFFFF s4 = .next (hi, s5) →
      exec .brk s = .next { s5 with pc := BitVec.ofNat 16 (hi.toNat * 256 + lo.toNat) }) ∧
    (s.mountAt 0xFFFE = none → exec .brk s = .fault (.unmappedAddress 0xFFFE .read s3.log))

/-- 70_reset R453, which the spec derives from 10_state R52 and 47 R368. -/
def Obligations.FirstStepFromResetFaults : Prop :=
  step State.reset = .fault (.unmappedAddress 0xFFFE .read
    [⟨.write, 0x01FB, 0x34⟩, ⟨.write, 0x01FC, 0x02⟩, ⟨.write, 0x01FD, 0x00⟩, ⟨.read, 0x0000, 0x00⟩])

/-- 60_exceptions R411: RTI resumes at the BRK address + 2 and restores the I the program had before. -/
def Obligations.BrkThenRtiReturns : Prop :=
  ∀ (s t : State) (pc : Addr) (a x y : Byte), s.stackInRam → exec .brk s = .next t →
    ∃ u, exec .rti { t with pc := pc, a := a, x := x, y := y } = .next u ∧
      u.pc = s.pc + 1 ∧ u.sp = s.sp ∧ u.flags = s.flags ∧ u.p = s.p ∧ u.a = a ∧ u.x = x ∧ u.y = y

/-- 46 R332: the round trip it quotes. -/
def Obligations.JsrThenRtsReturns : Prop :=
  ∀ (s t : State) (target : Addr), s.stackInRam → exec (.jsr target) s = .next t →
    ∃ u, exec .rts t = .next u ∧ t.pc = target ∧ u.pc = s.pc + 2 ∧ SameRegisters s u

/-- The round trips of 45 R312 and R313. -/
def Obligations.PushThenPullRestores : Prop :=
  ∀ s t : State, s.stackInRam →
    (∀ a : Byte, exec .pha s = .next t →
      ∃ u, exec .pla { t with a := a } = .next u ∧ u.a = s.a ∧ u.sp = s.sp ∧ u.flags = t.flags.withResult s.a) ∧
    (∀ f : Flags, exec .php s = .next t →
      ∃ u, exec .plp { t with flags := f } = .next u ∧ u.flags = s.flags ∧ u.p = s.p ∧ u.sp = s.sp)

/-- The inductive invariant of the machine (20_memory R62, R73, R76; 10_state R48, R49).. -/
def Obligations.StepKeepsInvariant : Prop :=
  ∀ s t : State, Invariant s → step s = .next t → Invariant t

/-- The base case of StepKeepsInvariant. -/
def Obligations.ResetMeetsInvariant : Prop :=
  Invariant State.reset

/-- 70_reset R450 with 20_memory R62. That a byte loaded where no mount stands stops the construction, and that one
loaded at a device does nothing, is the model's loader (log entry 15); a loaded byte that a storage or rom mount holds
is log entry 4. -/
def Obligations.ConstructionBuildsLaunchState : Prop :=
  (∀ (l : Launch) (t : State), construct l = .next t →
      Invariant t ∧ t.a = l.a ∧ t.x = l.x ∧ t.y = l.y ∧ t.sp = l.sp ∧ t.pc = l.pc ∧ t.p = (l.p &&& 0xEF) ||| 0x20 ∧
      t.mounts = ramMount :: l.mounts ∧ t.params = l.params ∧ t.log = [] ∧
      (∀ (before after : List (Addr × Byte)) (a : Addr) (v : Byte), l.bytes = before ++ (a, v) :: after →
        t.cellAt a ≠ none → (∀ c ∈ after, t.cellAt c.1 ≠ t.cellAt a) → t.peek a = some v) ∧
      ∀ a : Addr, a.toNat ≤ 0x1FFF → (∀ c ∈ l.bytes, t.cellAt c.1 ≠ t.cellAt a) → t.peek a = some 0) ∧
    ∀ l : Launch, (∃ t, construct l = .next t) ↔
      (∀ m ∈ l.mounts, m.start ≤ m.stop ∧ m.stop ≤ 0xFFFF) ∧
      (ramMount :: l.mounts).Pairwise (fun m n => ¬∃ a, m.start ≤ a ∧ a ≤ m.stop ∧ n.start ≤ a ∧ a ≤ n.stop) ∧
      ∀ c ∈ l.bytes, ∃ m ∈ ramMount :: l.mounts, m.start ≤ c.1.toNat ∧ c.1.toNat ≤ m.stop

/-- Frame: the bus accesses of the rules of files 41 to 47 (20_memory R69). -/
def Obligations.NonStoringInstructionsKeepMemory : Prop :=
  ∀ (i : Instr) (s t : State),
    i.mnemonic ∉ [Mnemonic.sta, .stx, .sty, .inc, .dec, .pha, .php, .jsr, .brk] →
    (i.mnemonic ∈ [Mnemonic.asl, .lsr, .rol, .ror] → i.mode = .accumulator) →
    exec i s = .next t → t.mem = s.mem ∧ SameBytes s t

/-- Frame, with the address the meaning itself computes (43 R253 to R255; 44 R280, R281, R286 to R289). -/
def Obligations.StoringInstructionsTouchOnlyTheirAddress : Prop :=
  ∀ (i : Instr) (s s1 t : State) (ea : Addr),
    i.mnemonic ∈ [Mnemonic.sta, .stx, .sty, .inc, .dec, .asl, .lsr, .rol, .ror] →
    resolve i.operand s = .next (.memory ea, s1) → exec i s = .next t →
    (∀ b : Addr, s.cellAt b ≠ s.cellAt ea → t.peek b = s.peek b) ∧
    (s.params.ramMirror = false → ∀ b : Addr, b ≠ ea → t.peek b = s.peek b) ∧
    t.a = s.a ∧ t.x = s.x ∧ t.y = s.y ∧ t.sp = s.sp

/-- Frame of the pushing instructions (40 R160, R162; 45 R310, R311; 46 R331; 47 R368). -/
def Obligations.StackInstructionsTouchOnlyTheirSlots : Prop :=
  ∀ (i : Instr) (s t : State) (n : Nat),
    (i.mnemonic = .pha ∨ i.mnemonic = .php) ∧ n = 1 ∨ i.mnemonic = .jsr ∧ n = 2 ∨ i.mnemonic = .brk ∧ n = 3 →
    exec i s = .next t →
    (∀ b : Addr, (∀ k < n, s.cellAt b ≠ s.cellAt (0x0100 + (s.sp - BitVec.ofNat 8 k).zeroExtend 16)) →
      t.peek b = s.peek b) ∧
    t.sp = s.sp - BitVec.ofNat 8 n ∧ t.a = s.a ∧ t.x = s.x ∧ t.y = s.y ∧
    t.flags = { s.flags with i := if i.mnemonic = .brk ∧ s.params.brkSetsI then true else s.flags.i }

/-- The writers named in 10_state R31 to R34, over all instructions. -/
def Obligations.RegistersChangeOnlyByTheirWriters : Prop :=
  ∀ (i : Instr) (s t : State), exec i s = .next t →
    (t.a ≠ s.a → i.mnemonic ∈ [Mnemonic.lda, .txa, .tya, .pla, .adc, .sbc, .and, .ora, .eor] ∨
      (i.mnemonic ∈ [Mnemonic.asl, .lsr, .rol, .ror] ∧ i.mode = .accumulator)) ∧
    (t.x ≠ s.x → i.mnemonic ∈ [Mnemonic.ldx, .tax, .tsx, .inx, .dex]) ∧
    (t.y ≠ s.y → i.mnemonic ∈ [Mnemonic.ldy, .tay, .iny, .dey]) ∧
    (t.sp ≠ s.sp → i.mnemonic ∈ [Mnemonic.txs, .pha, .php, .pla, .plp, .jsr, .rts, .rti, .brk])

/-- The writers named in 10_state R37 to R44, with the list of 40 R151, over all instructions. -/
def Obligations.FlagsChangeOnlyByTheirWriters : Prop :=
  ∀ (i : Instr) (s t : State), exec i s = .next t →
    let zn := [Mnemonic.lda, .ldx, .ldy, .tax, .tay, .txa, .tya, .tsx, .pla, .and, .ora, .eor, .adc, .sbc, .inc, .dec,
      .inx, .iny, .dex, .dey, .asl, .lsr, .rol, .ror, .cmp, .cpx, .cpy, .bit, .plp, .rti]
    (t.flags.c ≠ s.flags.c → i.mnemonic ∈
      [Mnemonic.adc, .sbc, .cmp, .cpx, .cpy, .asl, .lsr, .rol, .ror, .clc, .sec, .plp, .rti]) ∧
    (t.flags.z ≠ s.flags.z → i.mnemonic ∈ zn) ∧ (t.flags.n ≠ s.flags.n → i.mnemonic ∈ zn) ∧
    (t.flags.i ≠ s.flags.i →
      i.mnemonic ∈ [Mnemonic.cli, .sei, .plp, .rti] ∨ (i.mnemonic = .brk ∧ s.params.brkSetsI = true)) ∧
    (t.flags.d ≠ s.flags.d → i.mnemonic ∈ [Mnemonic.cld, .sed, .plp, .rti]) ∧
    (t.flags.v ≠ s.flags.v → i.mnemonic ∈ [Mnemonic.adc, .sbc, .bit, .clv, .plp, .rti])

/-- Mounting is a host operation, not an instruction (20_memory R62; 70_reset R450); the log and the draw counter are
the model's own fields (log entries 3 and 7). -/
def Obligations.SetupNeverChanges : Prop :=
  ∀ (i : Instr) (s t : State), exec i s = .next t →
    SameSetup s t ∧ ∃ new, t.log = new ++ s.log ∧ s.draws ≤ t.draws ∧ t.draws ≤ s.draws + new.length

/-- 10_state R39 and R40: no rule reads I or D except PHP and BRK. For an instruction that reads a device the equality
also rests on log entry 3: the same draw and offset answer the same byte, which is unsafe for comparing two runs in
general; here both executions start from one history. -/
def Obligations.DecimalAndInterruptFlagsGateNothing : Prop :=
  ∀ (i : Instr) (s : State) (d int : Bool), i.mnemonic ≠ .php → i.mnemonic ≠ .brk →
    outcomeWithoutDI (exec i { s with flags := { s.flags with d := d, i := int } }) = outcomeWithoutDI (exec i s)

/-- 40 R164 and 20_memory R69, R72; 60_exceptions R401 for the second part. accessesOf is the table
(Sys2Proof/Safety.lean); the instruction's own bytes are read by the fetch (log entry 8); the effective address in it
is the one resolve gives, which DirectModesResolve and ZeroPagePointersResolve state. -/
def Obligations.AccessesAreExactlyTheRules : Prop :=
  ∀ (i : Instr) (s : State),
    (∀ t, exec i s = .next t → ∃ made, t.log = made ++ s.log ∧ inBusOrder made = accessesOf i s) ∧
    ((∃ t, exec i s = .next t) ↔ ∀ c ∈ accessesOf i s, (s.mountAt c.2).isSome = true)

/-- 10_state R52 (the run status is the spec's decision D8). -/
def Obligations.ResetValues : Prop :=
  State.reset.a = 0x00 ∧ State.reset.x = 0x00 ∧ State.reset.y = 0x00 ∧ State.reset.sp = 0xFD ∧
    State.reset.p = 0x24 ∧ State.reset.pc = 0x0000 ∧ State.reset.status = .running ∧
    State.reset.mounts = [⟨0x0000, 0x1FFF, .ram⟩] ∧
    ∀ a : Addr, State.reset.peek a = if a.toNat ≤ 0x1FFF then some 0x00 else none

/-- 10_state R45 (with R41, R42, R46). -/
def Obligations.StatusRegisterHardwiredBits : Prop :=
  (∀ s : State, s.p &&& 0x30 = 0x20) ∧
    (∀ (s : State) (v : Byte), (s.setP v).p = (v &&& 0xEF) ||| 0x20) ∧ ∀ s : State, s.setP s.p = s

/-- 70_reset R461 (the fuel of a StopAt run is the model's, log entry 14). -/
def Obligations.RunsEndAsLaunched : Prop :=
  ∀ (s t : State) (n fuel : Nat) (addr : Addr) (e : Fault), Invariant s →
    (runUntil (.stepBudget n) fuel s = .completed t ↔ Host.Core.run Sys2Proof.core n s = .next t) ∧
    (runUntil (.stepBudget n) fuel s = .failed e ↔ Host.Core.run Sys2Proof.core n s = .fault e) ∧
    (runUntil (.stopAt addr) fuel s = .completed t ↔
      ∃ k ≤ fuel, Host.Core.run Sys2Proof.core k s = .next t ∧ t.pc = addr ∧
        ∀ j < k, ∀ u : State, Host.Core.run Sys2Proof.core j s = .next u → u.pc ≠ addr) ∧
    (runUntil (.stopAt addr) fuel s = .failed e ↔
      ∃ k ≤ fuel, Host.Core.run Sys2Proof.core k s = .fault e ∧
        ∀ j < k, ∀ u : State, Host.Core.run Sys2Proof.core j s = .next u → u.pc ≠ addr) ∧
    ((runUntil (.stepBudget n) fuel s = .completed t ∨ runUntil (.stopAt addr) fuel s = .completed t) →
      t.status = .running)
end

