-- ==== Sys2Proof/Laws/Bus.lean ====
section
/-! SUPPORT. What the sequencing of outcomes and the bus primitives can do, said once: cited by every later proof instead of
unfolding them. -/

namespace Sys2Proof.Machine

/-! Sequencing. -/

@[simp] theorem bindValue_next {α β : Type} (v : α) (s : State) (f : α → State → Host.Outcome β Fault Refusal) :
    bindValue (.next (v, s)) f = f v s := rfl
@[simp] theorem bindValue_fault {α β : Type} (e : Fault) (f : α → State → Host.Outcome β Fault Refusal) :
    bindValue (.fault e : Result α) f = .fault e := rfl
@[simp] theorem bindValue_refused {α β : Type} (e : Refusal) (f : α → State → Host.Outcome β Fault Refusal) :
    bindValue (.refused e : Result α) f = .refused e := rfl
@[simp] theorem bindState_next {β : Type} (s : State) (f : State → Host.Outcome β Fault Refusal) :
    bindState (.next s) f = f s := rfl
@[simp] theorem bindState_fault {β : Type} (e : Fault) (f : State → Host.Outcome β Fault Refusal) :
    bindState (.fault e) f = .fault e := rfl
@[simp] theorem bindState_refused {β : Type} (e : Refusal) (f : State → Host.Outcome β Fault Refusal) :
    bindState (.refused e) f = .refused e := rfl

/-- A sequence answers a next state only through its first part's. -/
theorem bindValue_eq_next {α β : Type} {r : Result α} {f : α → State → Host.Outcome β Fault Refusal} {t : β} :
    bindValue r f = .next t ↔ ∃ v s1, r = .next (v, s1) ∧ f v s1 = .next t := by
  rcases r with ⟨v, s⟩ | e | e <;> simp

theorem bindState_eq_next {β : Type} {r : StepResult} {f : State → Host.Outcome β Fault Refusal} {t : β} :
    bindState r f = .next t ↔ ∃ s1, r = .next s1 ∧ f s1 = .next t := by
  cases r <;> simp

/-- A sequence faults in its first part or after it. -/
theorem bindValue_eq_fault {α β : Type} {r : Result α} {f : α → State → Host.Outcome β Fault Refusal} {e : Fault} :
    bindValue r f = .fault e ↔ r = .fault e ∨ ∃ v s1, r = .next (v, s1) ∧ f v s1 = .fault e := by
  rcases r with ⟨v, s⟩ | e | e <;> simp

theorem bindState_eq_fault {β : Type} {r : StepResult} {f : State → Host.Outcome β Fault Refusal} {e : Fault} :
    bindState r f = .fault e ↔ r = .fault e ∨ ∃ s1, r = .next s1 ∧ f s1 = .fault e := by
  cases r <;> simp

/-! Mounts and cells. -/

theorem State.mountAt_mem {s : State} {a : Addr} {m : Mount} (h : s.mountAt a = some m) :
    m ∈ s.mounts ∧ m.covers a = true :=
  ⟨List.mem_of_find?_eq_some h, by simpa using List.find?_some h⟩

/-- The byte list's place of a covered address lies inside its mount. -/
theorem Mount.cell_bounds {m : Mount} {a : Addr} (p : Params) (h : m.covers a = true) :
    m.start ≤ m.cell p a ∧ m.cell p a ≤ m.stop := by
  simp only [Mount.covers, Bool.and_eq_true, decide_eq_true_eq] at h
  simp only [Mount.cell, Mount.offset]
  have hm := Nat.mod_le (a.toNat - m.start) Config.ramMirrorSize
  split <;> omega

theorem State.cellAt_congr {s t : State} (hm : t.mounts = s.mounts) (hp : t.params = s.params) (a : Addr) :
    t.cellAt a = s.cellAt a := by
  simp [State.cellAt, State.mountAt, hm, hp]

theorem State.peek_congr {s t : State} (hm : t.mounts = s.mounts) (hp : t.params = s.params) (hb : t.mem = s.mem)
    (a : Addr) : t.peek a = s.peek a := by
  simp [State.peek, State.cellAt_congr hm hp, hb]

/-! MemRead. -/

/-- What MemRead does where a mount covers the address: the byte of the store, or the device's draw. -/
theorem memRead_of_mount {s : State} {a : Addr} {m : Mount} (h : s.mountAt a = some m) :
    memRead a s =
      if m.kind = .device then
        .next (Config.deviceByte s.draws (m.offset a),
          (s.record ⟨.read, a, Config.deviceByte s.draws (m.offset a)⟩).countDraw)
      else .next (s.mem.read (m.cell s.params a), s.record ⟨.read, a, s.mem.read (m.cell s.params a)⟩) := by
  obtain ⟨lo, hi, k⟩ := m
  cases k <;> simp [memRead, h]

theorem memRead_unmapped {s : State} {a : Addr} (h : s.mountAt a = none) :
    memRead a s = .fault (.unmappedAddress a .read s.log) := by
  simp [memRead, h]

/-- MemRead of a store's byte. -/
theorem memRead_of_peek {s : State} {a : Addr} {v : Byte} (h : s.peek a = some v) :
    memRead a s = .next (v, s.record ⟨.read, a, v⟩) := by
  unfold State.peek State.cellAt at h
  cases hm : s.mountAt a with
  | none => simp [hm] at h
  | some m =>
    rw [memRead_of_mount hm]
    by_cases hk : m.kind = .device
    · simp [hm, hk] at h
    · simp [hm, hk] at h
      simp [hk, h]

/-- All that MemRead can change: one access more in the log, and the draw counter. -/
theorem memRead_next {s t : State} {a : Addr} {v : Byte} (h : memRead a s = .next (v, t)) :
    t = { s with log := ⟨.read, a, v⟩ :: s.log, draws := t.draws } ∧
      s.draws ≤ t.draws ∧ t.draws ≤ s.draws + 1 ∧ (s.mountAt a).isSome = true := by
  cases hm : s.mountAt a with
  | none => simp [memRead_unmapped hm] at h
  | some m =>
    rw [memRead_of_mount hm] at h
    split at h <;> (obtain ⟨rfl, rfl⟩ : _ ∧ _ := by simpa using h) <;> simp [State.record, State.countDraw]

theorem memRead_fault {s : State} {a : Addr} {e : Fault} (h : memRead a s = .fault e) :
    s.mountAt a = none ∧ e = .unmappedAddress a .read s.log := by
  cases hm : s.mountAt a with
  | none => simpa [memRead_unmapped hm, eq_comm] using h
  | some m => rw [memRead_of_mount hm] at h; split at h <;> simp at h

theorem memRead_not_refused (s : State) (a : Addr) (r : Refusal) : memRead a s ≠ .refused r := by
  cases hm : s.mountAt a with
  | none => simp [memRead_unmapped hm]
  | some m => rw [memRead_of_mount hm]; split <;> simp

/-! MemWrite. -/

theorem memWrite_unmapped {s : State} {a : Addr} {v : Byte} (h : s.mountAt a = none) :
    memWrite a v s = .fault (.unmappedAddress a .write s.log) := by
  simp [memWrite, h]

/-- What MemWrite does where a mount covers the address: a store that takes writes holds the byte after it, and the access
is recorded. -/
theorem memWrite_of_mount {s : State} {a : Addr} {v : Byte} {m : Mount} (h : s.mountAt a = some m) :
    memWrite a v s =
      .next ((s.record ⟨.write, a, v⟩).setMem
        (if m.kind = .ram ∨ m.kind = .storage then s.mem.write (m.cell s.params a) v else s.mem)) := by
  obtain ⟨lo, hi, k⟩ := m
  cases k <;> simp [memWrite, h, State.record, State.setMem]

/-- All that MemWrite can change: one access more in the log, and the bytes of the stores. -/
theorem memWrite_next {s t : State} {a : Addr} {v : Byte} (h : memWrite a v s = .next t) :
    t = { s with log := ⟨.write, a, v⟩ :: s.log, mem := t.mem } ∧ (s.mountAt a).isSome = true := by
  cases hm : s.mountAt a with
  | none => simp [memWrite_unmapped hm] at h
  | some m =>
    rw [memWrite_of_mount hm] at h
    obtain rfl : _ = t := by simpa using h
    simp [State.record, State.setMem]

theorem memWrite_fault {s : State} {a : Addr} {v : Byte} {e : Fault} (h : memWrite a v s = .fault e) :
    s.mountAt a = none ∧ e = .unmappedAddress a .write s.log := by
  cases hm : s.mountAt a with
  | none => simpa [memWrite_unmapped hm, eq_comm] using h
  | some m => simp [memWrite_of_mount hm] at h

theorem memWrite_not_refused (s : State) (a : Addr) (v : Byte) (r : Refusal) : memWrite a v s ≠ .refused r := by
  cases hm : s.mountAt a with
  | none => simp [memWrite_unmapped hm]
  | some m => simp [memWrite_of_mount hm]

/-- MemWrite and the bytes: an address of the same cell of a store that takes writes holds the written byte, every
address of another cell what it held. -/
theorem memWrite_peek {s t : State} {a b : Addr} {v : Byte} (h : memWrite a v s = .next t) :
    (s.cellAt b = s.cellAt a → s.storeAt a = true → t.peek b = some v) ∧
      (s.cellAt b ≠ s.cellAt a → t.peek b = s.peek b) := by
  cases hm : s.mountAt a with
  | none => simp [memWrite_unmapped hm] at h
  | some m =>
    rw [memWrite_of_mount hm] at h
    obtain rfl : _ = t := by simpa using h
    have hc : ∀ x, ((s.record ⟨.write, a, v⟩).setMem x).cellAt b = s.cellAt b :=
      fun x => State.cellAt_congr rfl rfl b
    have ha : s.cellAt a = if m.kind = .device then none else some (m.cell s.params a) := by simp [State.cellAt, hm]
    refine ⟨fun hba hst => ?_, fun hba => ?_⟩
    · have hk : m.kind = .ram ∨ m.kind = .storage := by simpa [State.storeAt, hm] using hst
      have hd : m.kind ≠ .device := by rcases hk with hk | hk <;> simp [hk]
      simp [State.peek, hc, hba, ha, hd, hk]
    · simp only [State.peek, hc, State.setMem_mem]
      cases hb : s.cellAt b with
      | none => rfl
      | some k =>
        by_cases hk : m.kind = .ram ∨ m.kind = .storage
        · have hd : m.kind ≠ .device := by rcases hk with hk | hk <;> simp [hk]
          have hne : m.cell s.params a ≠ k := fun e => hba (by rw [hb, ha, if_neg hd, e])
          simp [hk, Memory.read_write_other _ v hne]
        · simp [hk]

end Sys2Proof.Machine
end

