-- ==== Sys2Proof/Laws/Ops.lean ====
section
/-! SUPPORT. What each shared operation can do when it answers a next state, said once: word reads, the stack, the trap, the
addressing-mode resolver. -/

namespace Sys2Proof.Machine

/-- Nothing but the bus log and the draw counter differs: what reads may change. -/
structure ReadsOnly (s t : State) : Prop where
  rest : t = { s with log := t.log, draws := t.draws }
  logGrows : ∃ new, t.log = new ++ s.log ∧ (∀ e ∈ new, e.kind = .read) ∧ t.draws ≤ s.draws + new.length
  drawsGrow : s.draws ≤ t.draws

theorem ReadsOnly.refl (s : State) : ReadsOnly s s := ⟨rfl, ⟨[], by simp⟩, Nat.le_refl _⟩

theorem ReadsOnly.trans {s t u : State} (h : ReadsOnly s t) (k : ReadsOnly t u) : ReadsOnly s u := by
  obtain ⟨hr, ⟨n1, hl1, hk1, hd1⟩, hg1⟩ := h
  obtain ⟨kr, ⟨n2, hl2, hk2, hd2⟩, hg2⟩ := k
  refine ⟨by rw [kr, hr], ⟨n2 ++ n1, by simp [hl2, hl1], ?_, ?_⟩, Nat.le_trans hg1 hg2⟩
  · intro e he
    rcases List.mem_append.1 he with he | he
    · exact hk2 e he
    · exact hk1 e he
  · simp only [List.length_append]; omega

section fields
variable {s t : State} (h : ReadsOnly s t)
include h
theorem ReadsOnly.a : t.a = s.a := by rw [h.rest]
theorem ReadsOnly.x : t.x = s.x := by rw [h.rest]
theorem ReadsOnly.y : t.y = s.y := by rw [h.rest]
theorem ReadsOnly.sp : t.sp = s.sp := by rw [h.rest]
theorem ReadsOnly.flags : t.flags = s.flags := by rw [h.rest]
theorem ReadsOnly.pc : t.pc = s.pc := by rw [h.rest]
theorem ReadsOnly.mem : t.mem = s.mem := by rw [h.rest]
theorem ReadsOnly.mounts : t.mounts = s.mounts := by rw [h.rest]
theorem ReadsOnly.status : t.status = s.status := by rw [h.rest]
theorem ReadsOnly.params : t.params = s.params := by rw [h.rest]
theorem ReadsOnly.cellAt (b : Addr) : t.cellAt b = s.cellAt b := State.cellAt_congr h.mounts h.params b
theorem ReadsOnly.peek (b : Addr) : t.peek b = s.peek b := State.peek_congr h.mounts h.params h.mem b
end fields

theorem memRead_readsOnly {s t : State} {a : Addr} {v : Byte} (h : memRead a s = .next (v, t)) : ReadsOnly s t := by
  obtain ⟨ht, h1, h2, _⟩ := memRead_next h
  refine ⟨by rw [ht], ⟨[⟨.read, a, v⟩], by rw [ht]; rfl, by simp, by simpa using h2⟩, h1⟩

/-- A word read: two byte reads, the first at `lo`. -/
theorem readPair_next {s t : State} {lo hi w : Addr} (h : readPair lo hi s = .next (w, t)) :
    ∃ l h' s1, memRead lo s = .next (l, s1) ∧ memRead hi s1 = .next (h', t) ∧ w = wordOf h' l := by
  obtain ⟨l, s1, h1, h⟩ := bindValue_eq_next.1 h
  obtain ⟨h', s2, h2, h⟩ := bindValue_eq_next.1 h
  obtain ⟨rfl, rfl⟩ : _ ∧ _ := by simpa using h
  exact ⟨l, h', s1, h1, h2, rfl⟩

theorem readPair_readsOnly {s t : State} {lo hi w : Addr} (h : readPair lo hi s = .next (w, t)) : ReadsOnly s t := by
  obtain ⟨_, _, _, h1, h2, _⟩ := readPair_next h
  exact (memRead_readsOnly h1).trans (memRead_readsOnly h2)

/-- Two bytes of a store as a word. -/
theorem readPair_of_peek {s : State} {lo hi : Addr} {l h : Byte} (h1 : s.peek lo = some l) (h2 : s.peek hi = some h) :
    readPair lo hi s = .next (wordOf h l, (s.record ⟨.read, lo, l⟩).record ⟨.read, hi, h⟩) := by
  have h2' : (s.record ⟨.read, lo, l⟩).peek hi = some h := by rw [← h2]; exact State.peek_congr rfl rfl rfl hi
  simp [readPair, memRead_of_peek h1, memRead_of_peek h2']

/-! The stack. -/

/-- A push: one write at the stack address, then SP - 1. -/
theorem push_next {s t : State} {v : Byte} (h : push v s = .next t) :
    ∃ s1, memWrite (stackAddr s.sp) v s = .next s1 ∧ t = s1.setSp (s1.sp - 1) := by
  obtain ⟨s1, h1, h⟩ := bindState_eq_next.1 h
  exact ⟨s1, h1, by simpa [eq_comm] using h⟩

/-- A pull: SP + 1, then one read at the new stack address. -/
theorem pull_next {s t : State} {v : Byte} (h : pull s = .next (v, t)) :
    memRead (stackAddr (s.sp + 1)) (s.setSp (s.sp + 1)) = .next (v, t) ∧ ReadsOnly (s.setSp (s.sp + 1)) t :=
  ⟨h, memRead_readsOnly h⟩

theorem pushWord_next {s t : State} {w : Addr} (h : pushWord w s = .next t) :
    ∃ s1, push (hiByte w) s = .next s1 ∧ push (loByte w) s1 = .next t := bindState_eq_next.1 h

theorem pullWord_next {s t : State} {w : Addr} (h : pullWord s = .next (w, t)) :
    ∃ l h' s1, pull s = .next (l, s1) ∧ pull s1 = .next (h', t) ∧ w = wordOf h' l := by
  obtain ⟨l, s1, h1, h⟩ := bindValue_eq_next.1 h
  obtain ⟨h', s2, h2, h⟩ := bindValue_eq_next.1 h
  obtain ⟨rfl, rfl⟩ : _ ∧ _ := by simpa using h
  exact ⟨l, h', s1, h1, h2, rfl⟩

/-- The trap entry: the three pushes, the mask, the vector. -/
theorem takeBreak_next {s t : State} (h : takeBreak s = .next t) :
    ∃ s1 s2 w s3, pushWord (s.pc + 1) s = .next s1 ∧ push s1.flags.pushed s1 = .next s2 ∧
      readPair Config.brkVector (Config.brkVector + 1) s2.maskOnBreak = .next (w, s3) ∧ t = s3.setPc w := by
  obtain ⟨s1, h1, h⟩ := bindState_eq_next.1 h
  obtain ⟨s2, h2, h⟩ := bindState_eq_next.1 h
  obtain ⟨w, s3, h3, h⟩ := bindValue_eq_next.1 h
  exact ⟨s1, s2, w, s3, h1, h2, h3, by simpa [eq_comm] using h⟩

/-- The return: P, then PC. -/
theorem returnFromBreak_next {s t : State} (h : returnFromBreak s = .next t) :
    ∃ v s1 w s2, pull s = .next (v, s1) ∧ pullWord (s1.setP v) = .next (w, s2) ∧ t = s2.setPc w := by
  obtain ⟨v, s1, h1, h⟩ := bindValue_eq_next.1 h
  obtain ⟨w, s2, h2, h⟩ := bindValue_eq_next.1 h
  exact ⟨v, s1, w, s2, h1, h2, by simpa [eq_comm] using h⟩

/-! The resolver. -/

/-- Resolve only reads. -/
theorem resolve_readsOnly {op : Operand} {s t : State} {p : Place} (h : resolve op s = .next (p, t)) :
    ReadsOnly s t := by
  cases op <;> simp only [resolve] at h
  case indirect | indexedIndirect | indirectIndexed =>
    obtain ⟨w, s1, h1, h⟩ := bindValue_eq_next.1 h
    obtain ⟨_, rfl⟩ : _ ∧ _ := by simpa using h
    exact readPair_readsOnly h1
  all_goals
    obtain ⟨_, rfl⟩ : _ ∧ _ := by simpa using h
    exact ReadsOnly.refl s

theorem readPlace_readsOnly {p : Place} {s t : State} {v : Byte} (h : readPlace p s = .next (v, t)) :
    ReadsOnly s t := by
  cases p <;> simp only [readPlace, reduceCtorEq] at h
  case memory => exact memRead_readsOnly h
  all_goals
    obtain ⟨_, rfl⟩ : _ ∧ _ := by simpa using h
    exact ReadsOnly.refl s

/-- ReadOperand only reads. -/
theorem readOperand_readsOnly {op : Operand} {s t : State} {v : Byte} (h : readOperand op s = .next (v, t)) :
    ReadsOnly s t := by
  obtain ⟨p, s1, h1, h2⟩ := bindValue_eq_next.1 h
  exact (resolve_readsOnly h1).trans (readPlace_readsOnly h2)

theorem resolveAddress_readsOnly {op : Operand} {s t : State} {w : Addr} (h : resolveAddress op s = .next (w, t)) :
    ReadsOnly s t := by
  obtain ⟨p, s1, h1, h2⟩ := bindValue_eq_next.1 h
  refine (resolve_readsOnly h1).trans ?_
  cases p <;> simp only [placeAddress, reduceCtorEq] at h2
  all_goals
    obtain ⟨_, rfl⟩ : _ ∧ _ := by simpa using h2
    exact ReadsOnly.refl s1

/-- WriteOperand writes A in accumulator mode and one byte on the bus otherwise. -/
theorem writePlace_next {p : Place} {s t : State} {v : Byte} (h : writePlace p v s = .next t) :
    (p = .accumulator ∧ t = s.setA v) ∨ ∃ ea, p = .memory ea ∧ memWrite ea v s = .next t := by
  cases p <;> simp only [writePlace, reduceCtorEq] at h
  case accumulator => exact .inl ⟨rfl, by simpa [eq_comm] using h⟩
  case memory ea => exact .inr ⟨ea, rfl, h⟩

end Sys2Proof.Machine
end

