-- ==== Sys2Proof/Laws/Accesses.lean ====
section
/-! SUPPORT. What an operation does on the bus, said once for each: the list of its accesses decides whether it completes,
where it faults, and what the log holds afterwards. -/

namespace Sys2Proof.Machine

/-- The operation r, begun in s, makes the accesses `list`: all mapped, it answers a state with exactly them in the log;
else it faults at the first that is not, with exactly those before it made. `st` gives the state of its answer. -/
structure Performs {β : Type} (s : State) (list : List (AccessKind × Addr)) (st : β → State)
    (r : Host.Outcome β Fault Refusal) : Prop where
  completes : (∀ c ∈ list, (s.mountAt c.2).isSome = true) →
    ∃ b, r = .next b ∧ (st b).mounts = s.mounts ∧ ∃ made, (st b).log = made ++ s.log ∧ inBusOrder made = list
  faults : ∀ before after k a, list = before ++ (k, a) :: after →
    (∀ c ∈ before, (s.mountAt c.2).isSome = true) → s.mountAt a = none →
    ∃ made, r = .fault (.unmappedAddress a k (made ++ s.log)) ∧ inBusOrder made = before

theorem inBusOrder_append (l m : List BusEvent) : inBusOrder (l ++ m) = inBusOrder m ++ inBusOrder l := by
  simp [inBusOrder]

/-- A list of accesses is mapped throughout or has a first access that is not. -/
theorem firstUnmapped (s : State) (list : List (AccessKind × Addr)) :
    (∀ c ∈ list, (s.mountAt c.2).isSome = true) ∨
      ∃ before after k a, list = before ++ (k, a) :: after ∧
        (∀ c ∈ before, (s.mountAt c.2).isSome = true) ∧ s.mountAt a = none := by
  induction list with
  | nil => exact .inl (by simp)
  | cons c rest ih =>
    cases hc : s.mountAt c.2 with
    | none => exact .inr ⟨[], rest, c.1, c.2, rfl, by simp, hc⟩
    | some m =>
      rcases ih with h | ⟨before, after, k, a, h1, h2, h3⟩
      · exact .inl (by simpa [hc] using h)
      · exact .inr ⟨c :: before, after, k, a, by simp [h1], by simpa [hc] using h2, h3⟩

theorem State.mountAt_congr {s t : State} (h : t.mounts = s.mounts) (a : Addr) : t.mountAt a = s.mountAt a := by
  simp [State.mountAt, h]

/-- What a completed operation has done. -/
theorem Performs.of_next {β : Type} {s : State} {list : List (AccessKind × Addr)} {st : β → State}
    {r : Host.Outcome β Fault Refusal} (h : Performs s list st r) {b : β} (hr : r = .next b) :
    (∀ c ∈ list, (s.mountAt c.2).isSome = true) ∧ (st b).mounts = s.mounts ∧
      ∃ made, (st b).log = made ++ s.log ∧ inBusOrder made = list := by
  rcases firstUnmapped s list with hm | ⟨before, after, k, a, h1, h2, h3⟩
  · obtain ⟨b', hb, rest⟩ := h.completes hm
    obtain rfl : b' = b := by rw [hr] at hb; simpa [eq_comm] using hb
    exact ⟨hm, rest⟩
  · obtain ⟨made, hf, _⟩ := h.faults before after k a h1 h2 h3
    rw [hr] at hf
    cases hf

/-- A sequence makes the accesses of its first part, then those of what follows. -/
theorem Performs.bindValue {α β : Type} {s : State} {l m : List (AccessKind × Addr)} {r : Result α}
    {f : α → State → Host.Outcome β Fault Refusal} {st : β → State} (h : Performs s l Prod.snd r)
    (hf : ∀ v s1, r = .next (v, s1) → Performs s1 m st (f v s1)) : Performs s (l ++ m) st (bindValue r f) := by
  constructor
  · intro hm
    obtain ⟨⟨v, s1⟩, hr, hmounts, made, hlog, hmade⟩ := h.completes fun c hc => hm c (List.mem_append_left _ hc)
    have hmounts : s1.mounts = s.mounts := hmounts
    have hlog : s1.log = made ++ s.log := hlog
    obtain ⟨b, hb, hbm, more, hmore, hmo⟩ := (hf v s1 hr).completes fun c hc => by
      rw [State.mountAt_congr hmounts]; exact hm c (List.mem_append_right _ hc)
    exact ⟨b, by rw [hr]; exact hb, hbm.trans hmounts, more ++ made, by simp [hmore, hlog],
      by rw [inBusOrder_append, hmade, hmo]⟩
  · intro before after k a he hb ha
    rcases List.append_eq_append_iff.1 he with ⟨as, h1, h2⟩ | ⟨bs, h1, h2⟩
    · obtain ⟨⟨v, s1⟩, hr, hmounts, made, hlog, hmade⟩ := h.completes fun c hc =>
        hb c (by rw [h1]; exact List.mem_append_left _ hc)
      have hmounts : s1.mounts = s.mounts := hmounts
      have hlog : s1.log = made ++ s.log := hlog
      obtain ⟨more, hfault, hmo⟩ := (hf v s1 hr).faults as after k a h2
        (fun c hc => by rw [State.mountAt_congr hmounts]; exact hb c (by rw [h1]; exact List.mem_append_right _ hc))
        (by rw [State.mountAt_congr hmounts]; exact ha)
      exact ⟨more ++ made, by rw [hr, bindValue_next, hfault, hlog, List.append_assoc],
        by rw [inBusOrder_append, hmade, hmo, h1]⟩
    · cases bs with
      | nil =>
        obtain ⟨⟨v, s1⟩, hr, hmounts, made, hlog, hmade⟩ := h.completes fun c hc => hb c (by rw [h1] at hc; simpa using hc)
        have hmounts : s1.mounts = s.mounts := hmounts
        have hlog : s1.log = made ++ s.log := hlog
        obtain ⟨more, hfault, hmo⟩ := (hf v s1 hr).faults [] after k a (by simpa using h2.symm) (by simp)
          (by rw [State.mountAt_congr hmounts]; exact ha)
        exact ⟨more ++ made, by rw [hr, bindValue_next, hfault, hlog, List.append_assoc],
          by rw [inBusOrder_append, hmade, hmo, h1]; simp⟩
      | cons c rest =>
        obtain ⟨rfl, rfl⟩ : (k, a) = c ∧ after = rest ++ m := by simpa using h2
        obtain ⟨made, hfault, hmade⟩ := h.faults before rest k a h1 hb ha
        exact ⟨made, by rw [hfault]; rfl, hmade⟩

theorem Performs.bindState {β : Type} {s : State} {l m : List (AccessKind × Addr)} {r : StepResult}
    {f : State → Host.Outcome β Fault Refusal} {st : β → State} (h : Performs s l id r)
    (hf : ∀ s1, r = .next s1 → Performs s1 m st (f s1)) : Performs s (l ++ m) st (bindState r f) := by
  have e : Machine.bindState r f =
      Machine.bindValue (Machine.bindState r fun s1 => .next ((), s1)) fun (_ : Unit) s1 => f s1 := by
    cases r <;> rfl
  rw [e]
  have h' : Performs s l Prod.snd (Machine.bindState r fun s1 => .next ((), s1)) := by
    constructor
    · intro hm
      obtain ⟨b, hb, hr⟩ := h.completes hm
      exact ⟨((), b), by rw [hb]; rfl, hr⟩
    · intro before after k a he hb ha
      obtain ⟨made, hr, hm⟩ := h.faults before after k a he hb ha
      exact ⟨made, by rw [hr]; rfl, hm⟩
  refine h'.bindValue fun _ s1 hr => hf s1 ?_
  cases r with
  | next s2 => simpa using hr
  | fault e => simp at hr
  | refused e => simp at hr

/-- No access: an answer with the mounts and the log as they were. -/
theorem performs_next {β : Type} {s : State} {st : β → State} {b : β}
    (h : (st b).mounts = s.mounts ∧ (st b).log = s.log) :
    Performs s [] st (.next b) :=
  ⟨fun _ => ⟨b, rfl, h.1, [], by simp [h.2], rfl⟩, fun before _ _ _ he => by simp at he⟩

/-- The accesses of an operation begun after register writes. -/
theorem Performs.after {β : Type} {s t : State} {l : List (AccessKind × Addr)} {st : β → State}
    {r : Host.Outcome β Fault Refusal} (h : t.mounts = s.mounts ∧ t.log = s.log) (k : Performs t l st r) :
    Performs s l st r := by
  have hm := State.mountAt_congr h.1
  refine ⟨fun hl => ?_, fun before after k' a he hb ha => ?_⟩
  · obtain ⟨b, hb, h1, h2⟩ := k.completes fun c hc => by rw [hm]; exact hl c hc
    exact ⟨b, hb, h1.trans h.1, h.2 ▸ h2⟩
  · obtain ⟨made, hf⟩ := k.faults before after k' a he (fun c hc => by rw [hm]; exact hb c hc) (by rw [hm]; exact ha)
    exact ⟨made, h.2 ▸ hf⟩

/-! The bus and the stack. -/

theorem memRead_performs (a : Addr) (s : State) : Performs s [(.read, a)] Prod.snd (memRead a s) := by
  constructor
  · intro hm
    obtain ⟨m, hm⟩ := Option.isSome_iff_exists.1 (hm _ (List.mem_singleton.2 rfl))
    cases hr : memRead a s with
    | next b =>
      obtain ⟨v, t⟩ := b
      obtain ⟨ht, _⟩ := memRead_next hr
      exact ⟨(v, t), rfl, by rw [ht], [⟨.read, a, v⟩], by rw [ht]; rfl, rfl⟩
    | fault e => rw [(memRead_fault hr).1] at hm; cases hm
    | refused r => exact absurd hr (memRead_not_refused s a r)
  · intro before after k b he hb hn
    cases before with
    | nil =>
      obtain ⟨⟨rfl, rfl⟩, _⟩ : (.read = k ∧ a = b) ∧ _ := by simpa using he
      exact ⟨[], by simp [memRead_unmapped hn], rfl⟩
    | cons c rest => simp at he

theorem memWrite_performs (a : Addr) (v : Byte) (s : State) : Performs s [(.write, a)] id (memWrite a v s) := by
  constructor
  · intro hm
    obtain ⟨m, hm⟩ := Option.isSome_iff_exists.1 (hm _ (List.mem_singleton.2 rfl))
    cases hr : memWrite a v s with
    | next t =>
      obtain ⟨ht, _⟩ := memWrite_next hr
      exact ⟨t, rfl, by rw [ht]; rfl, [⟨.write, a, v⟩], by rw [ht]; rfl, rfl⟩
    | fault e => rw [(memWrite_fault hr).1] at hm; cases hm
    | refused r => exact absurd hr (memWrite_not_refused s a v r)
  · intro before after k b he hb hn
    cases before with
    | nil =>
      obtain ⟨⟨rfl, rfl⟩, _⟩ : (.write = k ∧ a = b) ∧ _ := by simpa using he
      exact ⟨[], by simp [memWrite_unmapped hn], rfl⟩
    | cons c rest => simp at he

theorem readPair_performs (lo hi : Addr) (s : State) :
    Performs s [(.read, lo), (.read, hi)] Prod.snd (readPair lo hi s) :=
  (memRead_performs lo s).bindValue (m := [(.read, hi)]) fun _ s1 _ =>
    (memRead_performs hi s1).bindValue (m := []) fun _ _ _ => performs_next ⟨rfl, rfl⟩

theorem push_performs (v : Byte) (s : State) : Performs s [(.write, stackAddr s.sp)] id (push v s) :=
  (memWrite_performs _ v s).bindState (m := []) fun _ _ => performs_next ⟨rfl, rfl⟩

theorem pull_performs (s : State) : Performs s [(.read, stackAddr (s.sp + 1))] Prod.snd (pull s) :=
  Performs.after (t := s.setSp (s.sp + 1)) ⟨rfl, rfl⟩ (memRead_performs _ _)

theorem push_sp {v : Byte} {s t : State} (h : push v s = .next t) : t.sp = s.sp - 1 := by
  obtain ⟨s1, h1, rfl⟩ := push_next h
  rw [(memWrite_next h1).1]
  rfl

theorem pushWord_performs (w : Addr) (s : State) :
    Performs s [(.write, stackAddr s.sp), (.write, stackAddr (s.sp - 1))] id (pushWord w s) :=
  (push_performs _ s).bindState (m := [(.write, stackAddr (s.sp - 1))]) fun s1 h => push_sp h ▸ push_performs _ s1

theorem pullWord_performs (s : State) :
    Performs s [(.read, stackAddr (s.sp + 1)), (.read, stackAddr (s.sp + 1 + 1))] Prod.snd (pullWord s) :=
  (pull_performs s).bindValue (m := [(.read, stackAddr (s.sp + 1 + 1))]) fun _ s1 h => by
    have hsp : s1.sp = s.sp + 1 := (pull_next h).2.sp
    exact hsp ▸ (pull_performs s1).bindValue (m := []) fun _ _ _ => performs_next ⟨rfl, rfl⟩

/-- The trap entry: three pushes, then the vector's two bytes. -/
theorem takeBreak_performs (s : State) :
    Performs s [(.write, stackAddr s.sp), (.write, stackAddr (s.sp - 1)), (.write, stackAddr (s.sp - 1 - 1)),
      (.read, Config.brkVector), (.read, Config.brkVector + 1)] id (takeBreak s) :=
  (pushWord_performs _ s).bindState (m := [(.write, stackAddr (s.sp - 1 - 1)), (.read, Config.brkVector),
    (.read, Config.brkVector + 1)]) fun s1 h => by
    obtain ⟨s2, h1, h2⟩ := pushWord_next h
    have hsp : s1.sp = s.sp - 1 - 1 := by rw [push_sp h2, push_sp h1]
    refine (hsp ▸ push_performs _ s1).bindState (m := [(.read, Config.brkVector), (.read, Config.brkVector + 1)])
      fun s3 _ => ?_
    have hmask : s3.maskOnBreak.mounts = s3.mounts ∧ s3.maskOnBreak.log = s3.log := by
      unfold State.maskOnBreak
      split <;> exact ⟨rfl, rfl⟩
    exact (Performs.after hmask (readPair_performs _ _ _)).bindValue (m := []) fun _ _ _ => performs_next ⟨rfl, rfl⟩

/-- The return from it: three pulls. -/
theorem returnFromBreak_performs (s : State) :
    Performs s [(.read, stackAddr (s.sp + 1)), (.read, stackAddr (s.sp + 1 + 1)), (.read, stackAddr (s.sp + 1 + 1 + 1))]
      id (returnFromBreak s) :=
  (pull_performs s).bindValue (m := [(.read, stackAddr (s.sp + 1 + 1)), (.read, stackAddr (s.sp + 1 + 1 + 1))])
    fun v s1 h => by
    have hsp : (s1.setP v).sp = s.sp + 1 := (pull_next h).2.sp
    have hw := pullWord_performs (s1.setP v)
    rw [hsp] at hw
    refine Performs.after (t := s1.setP v) ⟨rfl, rfl⟩ ?_
    exact hw.bindValue (m := []) fun _ _ _ => performs_next ⟨rfl, rfl⟩

/-! The resolver. -/

/-- The JMP pointer's second byte lies in the page of its first. -/
theorem samePageNext_eq (p : Addr) : samePageNext p = if p.toNat % 256 = 255 then p - 0xFF else p + 1 := by
  apply BitVec.eq_of_toNat_eq
  have := p.isLt
  rw [samePageNext, wordOf_toNat, hiByte_toNat, BitVec.toNat_add, loByte_toNat]
  split <;> bv_omega

/-- Resolve makes the pointer reads of its mode. -/
theorem resolve_performs (op : Operand) (s : State) : Performs s (s.pointerReads op) Prod.snd (resolve op s) := by
  cases op
  case indirect p =>
    rw [State.pointerReads, ← samePageNext_eq]
    exact (readPair_performs _ _ s).bindValue (m := []) fun _ _ _ => performs_next ⟨rfl, rfl⟩
  case indirectIndexed | indexedIndirect =>
    exact (readPair_performs _ _ s).bindValue (m := []) fun _ _ _ => performs_next ⟨rfl, rfl⟩
  all_goals exact performs_next ⟨rfl, rfl⟩

/-- An operand's accesses are those at the place resolve answers. -/
theorem operandAccesses_of_resolve {op : Operand} {s s1 : State} {p : Place} (h : resolve op s = .next (p, s1))
    (kinds : List AccessKind) : s.operandAccesses op kinds = p.accesses kinds := by
  simp [State.operandAccesses, h]

/-- The read step of a mode that has a data operand (40 R147). -/
theorem readPlace_performs {p : Place} (hp : p ≠ .nothing ∧ ∀ m ea, p ≠ .target m ea) (s : State) :
    Performs s (p.accesses [.read]) Prod.snd (readPlace p s) := by
  cases p with
  | nothing => exact absurd rfl hp.1
  | target m ea => exact absurd rfl (hp.2 m ea)
  | memory ea => exact memRead_performs ea s
  | accumulator => exact performs_next ⟨rfl, rfl⟩
  | constant v => exact performs_next ⟨rfl, rfl⟩

/-- The write step of a mode that can be written (40 R148). -/
theorem writePlace_performs {p : Place} (hp : p = .accumulator ∨ ∃ ea, p = .memory ea) (v : Byte) (s : State) :
    Performs s (p.accesses [.write]) id (writePlace p v s) := by
  rcases hp with rfl | ⟨ea, rfl⟩
  · exact performs_next ⟨rfl, rfl⟩
  · exact memWrite_performs ea v s

end Sys2Proof.Machine
end

