-- ==== Sys2Proof/Laws/Behaviour.lean ====
section
/-! SUPPORT. The bound every shared operation keeps, whatever it answers: a next state extends the log and keeps the setup
and the shape of memory; a fault is an unmapped address and carries every access made so far; nothing refuses. -/

namespace Sys2Proof.Machine

/-- The parts of the invariant that speak of the byte list. -/
def MemoryShape (s : State) : Prop :=
  s.mem.wf = true ∧ ∀ c ∈ s.mem, ∃ m ∈ s.mounts, m.kind ≠ .device ∧ m.start ≤ c.1 ∧ c.1 ≤ m.stop

/-- t comes from s by bus accesses and register writes. -/
structure Extends (s t : State) : Prop where
  setup : SameSetup s t
  logGrows : ∃ new, t.log = new ++ s.log ∧ s.draws ≤ t.draws ∧ t.draws ≤ s.draws + new.length
  shape : MemoryShape s → MemoryShape t

theorem Extends.refl (s : State) : Extends s s := ⟨⟨rfl, rfl, rfl⟩, ⟨[], by simp⟩, id⟩

theorem Extends.trans {s t u : State} (h : Extends s t) (k : Extends t u) : Extends s u := by
  obtain ⟨⟨a1, a2, a3⟩, ⟨n1, l1, d1, e1⟩, m1⟩ := h
  obtain ⟨⟨b1, b2, b3⟩, ⟨n2, l2, d2, e2⟩, m2⟩ := k
  exact ⟨⟨b1.trans a1, b2.trans a2, b3.trans a3⟩, ⟨n2 ++ n1, by simp [l1, l2], by omega, by simp; omega⟩, m2 ∘ m1⟩

theorem Extends.mountAt {s t : State} (h : Extends s t) (a : Addr) : t.mountAt a = s.mountAt a := by
  simp [State.mountAt, h.setup.1]

/-- The fault is an access to an address no mount of s covers, and its record extends the log of s. -/
def UnmappedFrom (s : State) (e : Fault) : Prop :=
  (∃ a k seen, e = .unmappedAddress a k seen ∧ s.mountAt a = none) ∧ ∃ new, e.seen = new ++ s.log

/-- The outcome of an operation begun in s; `st` gives the state of its answer. -/
def Behaves {β : Type} (s : State) (st : β → State) (r : Host.Outcome β Fault Refusal) : Prop :=
  match r with
  | .next b => Extends s (st b)
  | .fault e => UnmappedFrom s e
  | .refused _ => False

/-- A sequence behaves if its parts do. -/
theorem Behaves.bindValue {α β : Type} {s : State} {r : Result α} {f : α → State → Host.Outcome β Fault Refusal}
    {st : β → State} (h : Behaves s Prod.snd r) (k : ∀ v s1, r = .next (v, s1) → Behaves s1 st (f v s1)) :
    Behaves s st (bindValue r f) := by
  rcases r with ⟨v, s1⟩ | e | e
  · simp only [bindValue_next]
    have hk := k v s1 rfl
    have hE : Extends s s1 := h
    cases hf : f v s1 with
    | next b => rw [hf] at hk; exact hE.trans hk
    | fault e =>
      rw [hf] at hk
      obtain ⟨⟨a, kind, seen, h1, h2⟩, new, h3⟩ := hk
      obtain ⟨n1, l1, _⟩ := hE.logGrows
      exact ⟨⟨a, kind, seen, h1, by rw [← hE.mountAt]; exact h2⟩, new ++ n1, by simp [h3, l1]⟩
    | refused e => rw [hf] at hk; exact hk
  · exact h
  · exact h

theorem Behaves.bindState {β : Type} {s : State} {r : StepResult} {f : State → Host.Outcome β Fault Refusal}
    {st : β → State} (h : Behaves s id r) (k : ∀ s1, r = .next s1 → Behaves s1 st (f s1)) :
    Behaves s st (bindState r f) := by
  rcases r with s1 | e | e
  · exact Behaves.bindValue (r := (.next ((), s1) : Result Unit)) (f := fun _ s => f s) h
      (by rintro v s2 h; simp at h; subst h; exact k _ rfl)
  · exact h
  · exact h

/-- t differs from s in registers and flags only. -/
def RegistersOnly (s t : State) : Prop :=
  t.mem = s.mem ∧ t.mounts = s.mounts ∧ t.status = s.status ∧ t.params = s.params ∧ t.log = s.log ∧ t.draws = s.draws

theorem RegistersOnly.extends {s t : State} (h : RegistersOnly s t) : Extends s t := by
  obtain ⟨a, b, c, d, e, f⟩ := h
  exact ⟨⟨b, c, d⟩, ⟨[], by simp [e, f]⟩, by unfold MemoryShape; rw [a, b]; exact id⟩

theorem behaves_next {s t : State} (h : RegistersOnly s t) : Behaves s id (.next t : StepResult) := h.extends

theorem behaves_value {α : Type} {s t : State} {v : α} (h : RegistersOnly s t) :
    Behaves s Prod.snd (.next (v, t) : Result α) := h.extends

/-- An operation begun after register writes. -/
theorem Behaves.after {β : Type} {s t : State} {st : β → State} {r : Host.Outcome β Fault Refusal}
    (h : RegistersOnly s t) (k : Behaves t st r) : Behaves s st r :=
  Behaves.bindState (r := .next t) (f := fun _ => r) (behaves_next h) (by rintro s1 h; simp at h; subst h; exact k)

theorem memRead_behaves (a : Addr) (s : State) : Behaves s Prod.snd (memRead a s) := by
  cases hr : memRead a s with
  | next b =>
    obtain ⟨v, t⟩ := b
    obtain ⟨h1, h2, h3, _⟩ := memRead_next hr
    refine ⟨?_, ⟨[⟨.read, a, v⟩], ?_, h2, by simpa using h3⟩, ?_⟩
    · rw [h1]; exact ⟨rfl, rfl, rfl⟩
    · rw [h1]; rfl
    · rw [h1]; exact id
  | fault e => obtain ⟨h1, rfl⟩ := memRead_fault hr; exact ⟨⟨_, _, _, rfl, h1⟩, [], rfl⟩
  | refused e => exact memRead_not_refused _ _ _ hr

theorem memWrite_behaves (a : Addr) (v : Byte) (s : State) : Behaves s id (memWrite a v s) := by
  cases hr : memWrite a v s with
  | next t =>
    obtain ⟨h1, h2⟩ := memWrite_next hr
    refine ⟨?_, ⟨[⟨.write, a, v⟩], ?_, ?_⟩, ?_⟩
    · rw [h1]; exact ⟨rfl, rfl, rfl⟩
    · rw [h1]; rfl
    · rw [h1]; simp
    · rintro ⟨w1, w2⟩
      obtain ⟨m, hm⟩ := Option.isSome_iff_exists.1 h2
      rw [memWrite_of_mount hm] at hr
      obtain rfl : _ = t := by simpa using hr
      by_cases hk : m.kind = .ram ∨ m.kind = .storage
      · refine ⟨by simp [hk, Memory.wf_write _ _ w1], fun c hc => ?_⟩
        simp [hk] at hc
        rcases Memory.mem_write hc with rfl | hc
        · have hb := State.mountAt_mem hm
          exact ⟨m, hb.1, by rcases hk with hk | hk <;> simp [hk], Mount.cell_bounds _ hb.2⟩
        · exact w2 c hc
      · simp [hk]; exact ⟨w1, w2⟩
  | fault e => obtain ⟨h1, rfl⟩ := memWrite_fault hr; exact ⟨⟨_, _, _, rfl, h1⟩, [], rfl⟩
  | refused e => exact memWrite_not_refused _ _ _ _ hr

theorem readPair_behaves (lo hi : Addr) (s : State) : Behaves s Prod.snd (readPair lo hi s) :=
  (memRead_behaves lo s).bindValue fun _ s1 _ =>
    (memRead_behaves hi s1).bindValue fun _ _ _ => behaves_value ⟨rfl, rfl, rfl, rfl, rfl, rfl⟩

theorem push_behaves (v : Byte) (s : State) : Behaves s id (push v s) :=
  (memWrite_behaves _ v s).bindState fun _ _ => behaves_next ⟨rfl, rfl, rfl, rfl, rfl, rfl⟩

theorem pull_behaves (s : State) : Behaves s Prod.snd (pull s) :=
  Behaves.after (t := s.setSp (s.sp + 1)) ⟨rfl, rfl, rfl, rfl, rfl, rfl⟩ (memRead_behaves _ _)

theorem pushWord_behaves (w : Addr) (s : State) : Behaves s id (pushWord w s) :=
  (push_behaves _ s).bindState fun s1 _ => push_behaves _ s1

theorem pullWord_behaves (s : State) : Behaves s Prod.snd (pullWord s) :=
  (pull_behaves s).bindValue fun _ s1 _ =>
    (pull_behaves s1).bindValue fun _ _ _ => behaves_value ⟨rfl, rfl, rfl, rfl, rfl, rfl⟩

theorem maskOnBreak_registersOnly (s : State) : RegistersOnly s s.maskOnBreak := by
  unfold State.maskOnBreak
  split <;> exact ⟨rfl, rfl, rfl, rfl, rfl, rfl⟩

theorem takeBreak_behaves (s : State) : Behaves s id (takeBreak s) :=
  (pushWord_behaves _ s).bindState fun s1 _ =>
    (push_behaves _ s1).bindState fun s2 _ =>
      Behaves.bindValue (Behaves.after (maskOnBreak_registersOnly s2) (readPair_behaves _ _ _))
        fun _ _ _ => behaves_next ⟨rfl, rfl, rfl, rfl, rfl, rfl⟩

theorem returnFromBreak_behaves (s : State) : Behaves s id (returnFromBreak s) :=
  (pull_behaves s).bindValue fun v s1 _ =>
    Behaves.bindValue (Behaves.after (t := s1.setP v) ⟨rfl, rfl, rfl, rfl, rfl, rfl⟩ (pullWord_behaves _))
      fun _ _ _ => behaves_next ⟨rfl, rfl, rfl, rfl, rfl, rfl⟩

theorem resolve_behaves (op : Operand) (s : State) : Behaves s Prod.snd (resolve op s) := by
  cases op
  case indirect | indirectIndexed | indexedIndirect =>
    exact (readPair_behaves _ _ _).bindValue fun _ _ _ => behaves_value ⟨rfl, rfl, rfl, rfl, rfl, rfl⟩
  all_goals exact behaves_value ⟨rfl, rfl, rfl, rfl, rfl, rfl⟩

/-- The read step of a mode that has a data operand (40 R147). -/
theorem readPlace_behaves {p : Place} (hp : p ≠ .nothing ∧ ∀ m ea, p ≠ .target m ea) (s : State) :
    Behaves s Prod.snd (readPlace p s) := by
  cases p with
  | nothing => exact absurd rfl hp.1
  | target m ea => exact absurd rfl (hp.2 m ea)
  | memory ea => exact memRead_behaves ea s
  | accumulator => exact behaves_value ⟨rfl, rfl, rfl, rfl, rfl, rfl⟩
  | constant v => exact behaves_value ⟨rfl, rfl, rfl, rfl, rfl, rfl⟩

/-- The write step of a mode that can be written (40 R148). -/
theorem writePlace_behaves {p : Place} (hp : p = .accumulator ∨ ∃ ea, p = .memory ea) (v : Byte) (s : State) :
    Behaves s id (writePlace p v s) := by
  rcases hp with rfl | ⟨ea, rfl⟩
  · exact behaves_next ⟨rfl, rfl, rfl, rfl, rfl, rfl⟩
  · exact memWrite_behaves ea v s

end Sys2Proof.Machine
end

