-- ==== Sys2Proof/Laws/Construct.lean ====
section
/-! SUPPORT. What mounting, loading and construction can do, said once for each. -/

namespace Sys2Proof.Machine

theorem Mount.overlaps_comm (m n : Mount) : m.overlaps n = n.overlaps m := by
  simp only [Mount.overlaps]
  rw [Bool.and_comm]

/-- Mounting a list completes exactly when every mount is well-formed and none shares an address with another; all it
changes is the mounts. -/
theorem mountAll_eq_next (ms : List Mount) :
    ∀ {s t : State}, s.mounts.Pairwise (fun m n => m.overlaps n = false) →
      (State.mountAll ms s = .next t ↔ (∀ m ∈ ms, m.wellFormed = true) ∧
        (s.mounts ++ ms).Pairwise (fun m n => m.overlaps n = false) ∧ t = { s with mounts := s.mounts ++ ms }) := by
  induction ms with
  | nil =>
    intro s t h
    simp only [State.mountAll, List.append_nil, h, true_and, List.not_mem_nil, false_imp_iff, implies_true]
    constructor
    · intro h; cases h; rfl
    · rintro rfl; rfl
  | cons m rest ih =>
    intro s t hs
    have e : s.mounts ++ m :: rest = (s.mounts ++ [m]) ++ rest := by simp
    rw [State.mountAll, bindState_eq_next, e]
    constructor
    · rintro ⟨s1, h1, h2⟩
      unfold State.mount at h1
      split at h1
      · next hc =>
        simp only [Bool.and_eq_true, Bool.not_eq_true', List.any_eq_false] at hc
        obtain rfl : _ = s1 := by simpa using h1
        have hp : (s.mounts ++ [m]).Pairwise (fun m n => m.overlaps n = false) :=
          List.pairwise_append.2 ⟨hs, by simp, fun a ha b hb => by
            obtain rfl : b = m := by simpa using hb
            rw [Mount.overlaps_comm]
            simpa using hc.2 a ha⟩
        obtain ⟨a, b, c⟩ := (ih hp).1 h2
        exact ⟨by simpa using ⟨hc.1, a⟩, b, c⟩
      · cases h1
    · rintro ⟨h1, h2, rfl⟩
      have hp := (List.pairwise_append.1 h2).1
      have hc : m.wellFormed && !(s.mounts.any m.overlaps) := by
        simp only [Bool.and_eq_true, Bool.not_eq_true', List.any_eq_false]
        refine ⟨h1 m List.mem_cons_self, fun n hn => ?_⟩
        have := (List.pairwise_append.1 hp).2.2 n hn m List.mem_cons_self
        rw [Mount.overlaps_comm] at this
        simp [this]
      exact ⟨{ s with mounts := s.mounts ++ [m] }, by simp only [State.mount, hc, if_true],
        (ih hp).2 ⟨fun n hn => h1 n (List.mem_cons_of_mem _ hn), h2, rfl⟩⟩

/-- All that a loaded byte can change: the byte list, at the place of its address. -/
theorem State.poke_spec (s : State) (a : Addr) (v : Byte) :
    s.poke a v = { s with mem := (s.poke a v).mem } ∧ (MemoryShape s → MemoryShape (s.poke a v)) ∧
      ∀ b, (s.poke a v).peek b = if s.cellAt b = s.cellAt a ∧ s.cellAt a ≠ none then some v else s.peek b := by
  unfold State.poke
  cases hc : s.cellAt a with
  | none => exact ⟨rfl, id, by simp⟩
  | some k =>
    refine ⟨rfl, fun ⟨w1, w2⟩ => ⟨Memory.wf_write _ _ w1, fun c hcell => ?_⟩, fun b => ?_⟩
    · rcases Memory.mem_write hcell with rfl | h
      · unfold State.cellAt at hc
        cases hm : s.mountAt a with
        | none => simp [hm] at hc
        | some m =>
          simp [hm] at hc
          have hb := State.mountAt_mem hm
          exact ⟨m, hb.1, hc.1, by rw [← hc.2]; exact Mount.cell_bounds s.params hb.2⟩
      · exact w2 c h
    · have hcell : (s.setMem (s.mem.write k v)).cellAt b = s.cellAt b := State.cellAt_congr rfl rfl b
      simp only [State.peek, hcell]
      cases hb : s.cellAt b with
      | none => simp
      | some j =>
        simp only [Option.map_some, State.setMem_mem, Memory.read_write]
        by_cases hjk : k = j
        · simp [hjk]
        · simp [hjk, Ne.symm hjk]

/-- Loading completes exactly when every address is mapped; all it changes is the byte list, where the byte loaded last at
a place is held and every other place is as before. -/
theorem loadAll_spec (bs : List (Addr × Byte)) :
    ∀ s : State, ((∃ t, State.loadAll bs s = .next t) ↔ ∀ c ∈ bs, (s.mountAt c.1).isSome = true) ∧
      ∀ t, State.loadAll bs s = .next t → t = { s with mem := t.mem } ∧ (MemoryShape s → MemoryShape t) ∧
        (∀ b, (∀ c ∈ bs, s.cellAt c.1 ≠ s.cellAt b) → t.peek b = s.peek b) ∧
        ∀ before after a v, bs = before ++ (a, v) :: after → s.cellAt a ≠ none →
          (∀ c ∈ after, s.cellAt c.1 ≠ s.cellAt a) → t.peek a = some v := by
  induction bs with
  | nil =>
    intro s
    refine ⟨by simp [State.loadAll], fun t h => ?_⟩
    obtain rfl : s = t := by simpa [State.loadAll] using h
    exact ⟨rfl, id, fun _ _ => rfl, by simp⟩
  | cons c rest ih =>
    intro s
    obtain ⟨a, v⟩ := c
    obtain ⟨p1, p2, p3⟩ := s.poke_spec a v
    have hm : (s.poke a v).mounts = s.mounts := by rw [p1]
    have hcell : ∀ b, (s.poke a v).cellAt b = s.cellAt b := State.cellAt_congr hm (by rw [p1])
    have hma : ∀ b, (s.poke a v).mountAt b = s.mountAt b := fun b => by simp [State.mountAt, hm]
    obtain ⟨i1, i2⟩ := ih (s.poke a v)
    have hl : State.loadAll ((a, v) :: rest) s = match s.mountAt a with
        | none => .fault (.unmappedAddress a .write s.log)
        | some _ => State.loadAll rest (s.poke a v) := by
      rw [State.loadAll, State.loadByte]
      cases s.mountAt a <;> rfl
    cases hs : s.mountAt a with
    | none => simp [hl, hs]
    | some m =>
      simp only [hl, hs]
      refine ⟨by rw [i1]; simp [hs, hma], fun t ht => ?_⟩
      obtain ⟨t1, t2, t3, t4⟩ := i2 t ht
      refine ⟨by rw [t1, p1], t2 ∘ p2, fun b hb => ?_, fun before after b w he hn haft => ?_⟩
      · rw [t3 b fun c hc => by rw [hcell, hcell]; exact hb c (List.mem_cons_of_mem _ hc), p3]
        simp [Ne.symm (hb (a, v) List.mem_cons_self)]
      · cases before with
        | nil =>
          obtain ⟨⟨rfl, rfl⟩, rfl⟩ : (a = b ∧ v = w) ∧ rest = after := by simpa using he
          rw [t3 a fun c hc => by rw [hcell, hcell]; exact haft c hc, p3]
          simp [hn]
        | cons d before =>
          obtain ⟨_, he⟩ : (a, v) = d ∧ rest = before ++ (b, w) :: after := by simpa using he
          exact t4 before after b w he (by rw [hcell]; exact hn) fun c hc => by rw [hcell, hcell]; exact haft c hc

/-- The state after mounting, before any byte is loaded. -/
def Launch.mounted (l : Launch) : State := { State.reset with params := l.params, mounts := ramMount :: l.mounts }

/-- Construction: sound mounts, then the loaded bytes, then the registers. -/
theorem construct_eq_next {l : Launch} {t : State} :
    construct l = .next t ↔ (∀ m ∈ l.mounts, m.wellFormed = true) ∧
      (ramMount :: l.mounts).Pairwise (fun m n => m.overlaps n = false) ∧
      ∃ s, State.loadAll l.bytes l.mounted = .next s ∧
        t = { s with a := l.a, x := l.x, y := l.y, sp := l.sp, flags := Flags.ofByte l.p, pc := l.pc } := by
  have hr : ∀ s1, State.mountAll l.mounts { State.reset with params := l.params } = .next s1 ↔
      (∀ m ∈ l.mounts, m.wellFormed = true) ∧
        (ramMount :: l.mounts).Pairwise (fun m n => m.overlaps n = false) ∧ s1 = l.mounted :=
    fun s1 => mountAll_eq_next l.mounts (by simp [State.reset])
  unfold construct
  rw [bindState_eq_next]
  constructor
  · rintro ⟨s1, h1, h2⟩
    obtain ⟨s2, h2, h3⟩ := bindState_eq_next.1 h2
    obtain ⟨a, b, rfl⟩ := (hr s1).1 h1
    exact ⟨a, b, s2, h2, by simpa [eq_comm] using h3⟩
  · rintro ⟨a, b, s2, h, rfl⟩
    exact ⟨_, (hr _).2 ⟨a, b, rfl⟩, bindState_eq_next.2 ⟨s2, h, rfl⟩⟩

end Sys2Proof.Machine
end

