-- ==== Sys2Proof/Laws/Exec.lean ====
section
/-! SUPPORT. exec as a function of mnemonic and operand: one equation takes the 151 arms to the 56 rules of files 41 to 47,
so that a proof about a mnemonic needs no case split over its rows. -/

namespace Sys2Proof.Machine

/-- The meaning of a (mnemonic, operand) pair, over the operations the families share. -/
def formMeaning (m : Mnemonic) (op : Operand) (s : State) : StepResult :=
  match m with
  | .cmp => compareWith State.a op s
  | .cpx => compareWith State.x op s
  | .cpy => compareWith State.y op s
  | .adc => addWith addC op s
  | .sbc => addWith subC op s
  | .and => logicWith andUnit op s
  | .ora => logicWith orUnit op s
  | .eor => logicWith xorUnit op s
  | .bit => bitWith op s
  | .lda => loadInto State.setA op s
  | .ldx => loadInto State.setX op s
  | .ldy => loadInto State.setY op s
  | .sta => storeFrom State.a op s
  | .stx => storeFrom State.x op s
  | .sty => storeFrom State.y op s
  | .tax => execTax s
  | .tay => execTay s
  | .txa => execTxa s
  | .tya => execTya s
  | .tsx => execTsx s
  | .txs => execTxs s
  | .inc => modifyWith incUnit op s
  | .dec => modifyWith decUnit op s
  | .inx => execInx s
  | .iny => execIny s
  | .dex => execDex s
  | .dey => execDey s
  | .asl => shiftWith aslUnit op s
  | .lsr => shiftWith lsrUnit op s
  | .rol => shiftWith rolUnit op s
  | .ror => shiftWith rorUnit op s
  | .pha => execPha s
  | .php => execPhp s
  | .pla => execPla s
  | .plp => execPlp s
  | .jmp => jumpTo op s
  | .jsr => bindValue (resolveAddress op s) fun t s1 => bindState (pushWord (s1.pc + 2 - 1) s1) fun s2 => .next (s2.setPc t)
  | .rts => execRts s
  | .rti => execRti s
  | .bcc => branchIf (fun f => !f.c) op s
  | .bcs => branchIf (fun f => f.c) op s
  | .beq => branchIf (fun f => f.z) op s
  | .bne => branchIf (fun f => !f.z) op s
  | .bmi => branchIf (fun f => f.n) op s
  | .bpl => branchIf (fun f => !f.n) op s
  | .bvc => branchIf (fun f => !f.v) op s
  | .bvs => branchIf (fun f => f.v) op s
  | .clc => execClc s
  | .sec => execSec s
  | .cld => execCld s
  | .sed => execSed s
  | .cli => execCli s
  | .sei => execSei s
  | .clv => execClv s
  | .nop => execNop s
  | .brk => execBrk s

theorem exec_eq_formMeaning (i : Instr) (s : State) : exec i s = formMeaning i.mnemonic i.operand s := by
  cases i <;> rfl

/-- A rule about one mnemonic: every row of it has the mnemonic's meaning. -/
theorem exec_of_mnemonic {i : Instr} {m : Mnemonic} (h : i.mnemonic = m) (s : State) :
    exec i s = formMeaning m i.operand s := h ▸ exec_eq_formMeaning i s

theorem instr_wellFormed (i : Instr) : i.WellFormed := by cases i <;> rfl

theorem advance_implied (s : State) : advance .implied s = s := by
  simp [advance, State.setPc, Operand.mode, Mode.size]

end Sys2Proof.Machine
end

