-- ==== Sys2Proof/Laws/Launch.lean ====
section
/-! SUPPORT. The state after an error: replaying an access is what the access itself did; a replay and the loss of RAM
keep the shape of the byte list and the bytes of every store that is not RAM. -/

namespace Sys2Proof.Machine

/-! One access. -/

/-- A read that answers is recorded, and its replay is all else it does. -/
theorem memRead_eq_replay {s t : State} {a : Addr} {v : Byte} (h : memRead a s = .next (v, t)) :
    t = (s.replay ⟨.read, a, v⟩).record ⟨.read, a, v⟩ := by
  cases hm : s.mountAt a with
  | none => simp [memRead_unmapped hm] at h
  | some m =>
    obtain ⟨lo, hi, k⟩ := m
    cases k <;> (simp only [memRead, hm] at h; obtain ⟨rfl, rfl⟩ : _ ∧ _ := by simpa using h) <;>
      simp [State.replay, hm, State.record, State.countDraw]

/-- A write that answers is recorded, and its replay is all else it does. -/
theorem memWrite_eq_replay {s t : State} {a : Addr} {v : Byte} (h : memWrite a v s = .next t) :
    t = (s.replay ⟨.write, a, v⟩).record ⟨.write, a, v⟩ := by
  cases hm : s.mountAt a with
  | none => simp [memWrite_unmapped hm] at h
  | some m =>
    obtain ⟨lo, hi, k⟩ := m
    cases k <;> (simp only [memWrite, hm] at h; obtain rfl : _ = t := by simpa using h) <;>
      simp [State.replay, hm, State.record, State.setMem]

/-- All that a replay can change: the byte list and the draw counter. -/
theorem State.replay_rest (e : BusEvent) (s : State) :
    s.replay e = { s with mem := (s.replay e).mem, draws := (s.replay e).draws } := by
  unfold State.replay
  split
  · rfl
  · split <;> rfl

@[simp] theorem State.replay_mounts (e : BusEvent) (s : State) : (s.replay e).mounts = s.mounts := by
  rw [State.replay_rest]
@[simp] theorem State.replay_params (e : BusEvent) (s : State) : (s.replay e).params = s.params := by
  rw [State.replay_rest]

/-- A replay counts a draw for a device read and for nothing else. -/
theorem State.replay_draws (e : BusEvent) (s : State) :
    (s.replay e).draws = s.draws + if e.kind == .read && s.kindAt e.addr == some .device then 1 else 0 := by
  obtain ⟨k, a, v⟩ := e
  cases hm : s.mountAt a with
  | none => simp [State.replay, State.kindAt, hm]
  | some m =>
    obtain ⟨lo, hi, j⟩ := m
    cases k <;> cases j <;> simp [State.replay, State.kindAt, hm, State.countDraw, State.setMem]

/-- The bytes after a replay: a store that takes writes holds the written byte. -/
theorem State.replay_mem (e : BusEvent) (s : State) :
    (s.replay e).mem = s.mem ∨
      e.kind = .write ∧ ∃ m, s.mountAt e.addr = some m ∧ (m.kind = .ram ∨ m.kind = .storage) ∧
      (s.replay e).mem = s.mem.write (m.cell s.params e.addr) e.value := by
  obtain ⟨k, a, v⟩ := e
  cases hm : s.mountAt a with
  | none => simp [State.replay, hm]
  | some m =>
    obtain ⟨lo, hi, j⟩ := m
    cases k <;> cases j <;> simp [State.replay, hm, State.countDraw, State.setMem]

/-- The replay of a write to a store that takes writes. -/
theorem State.replay_write {e : BusEvent} {s : State} {m : Mount} (hk : e.kind = .write)
    (hm : s.mountAt e.addr = some m) (h : m.kind = .ram ∨ m.kind = .storage) :
    (s.replay e).mem = s.mem.write (m.cell s.params e.addr) e.value := by
  obtain ⟨k, a, v⟩ := e
  obtain rfl : k = .write := hk
  obtain ⟨lo, hi, j⟩ := m
  have hm : s.mountAt a = some ⟨lo, hi, j⟩ := hm
  rcases h with rfl | rfl <;> simp [State.replay, hm, State.setMem]

/-! The accesses of a step, oldest first. -/

@[simp] theorem State.replayAll_mounts (es : List BusEvent) (s : State) :
    (es.foldr State.replay s).mounts = s.mounts := by
  induction es with
  | nil => rfl
  | cons e rest ih => simp [ih]

@[simp] theorem State.replayAll_params (es : List BusEvent) (s : State) :
    (es.foldr State.replay s).params = s.params := by
  induction es with
  | nil => rfl
  | cons e rest ih => simp [ih]

/-- One draw for each device read among the accesses. -/
theorem State.replayAll_draws (es : List BusEvent) (s : State) :
    (es.foldr State.replay s).draws =
      s.draws + es.countP (fun e => e.kind == .read && s.kindAt e.addr == some .device) := by
  induction es with
  | nil => rfl
  | cons e rest ih =>
    have hk : (rest.foldr State.replay s).kindAt e.addr = s.kindAt e.addr := by simp [State.kindAt, State.mountAt]
    rw [List.foldr_cons, State.replay_draws, ih, hk, List.countP_cons]
    omega

theorem State.replayAll_wf (es : List BusEvent) {s : State} (h : s.mem.wf = true) :
    (es.foldr State.replay s).mem.wf = true := by
  induction es with
  | nil => exact h
  | cons e rest ih =>
    rcases State.replay_mem e (rest.foldr State.replay s) with hm | ⟨_, m, _, _, hm⟩ <;> rw [List.foldr_cons, hm]
    · exact ih
    · exact Memory.wf_write _ _ ih

/-! Bytes outside RAM. -/

/-- Where mounts share no address, a place of the byte list belongs to one of them. -/
theorem State.mount_unique {s : State} (hd : s.mounts.Pairwise (fun m n => m.overlaps n = false))
    {m n : Mount} {k : Nat} (hm : m ∈ s.mounts) (hn : n ∈ s.mounts) (h1 : m.start ≤ k) (h2 : k ≤ m.stop)
    (h3 : n.start ≤ k) (h4 : k ≤ n.stop) :
    m = n := by
  obtain ⟨i, hi, rfl⟩ := List.getElem_of_mem hm
  obtain ⟨j, hj, rfl⟩ := List.getElem_of_mem hn
  have hp := List.pairwise_iff_getElem.1 hd
  rcases Nat.lt_trichotomy i j with h | h | h
  · have := hp i j hi hj h
    simp only [Mount.overlaps, Bool.and_eq_false_iff, decide_eq_false_iff_not] at this
    omega
  · simp [h]
  · have := hp j i hj hi h
    simp only [Mount.overlaps, Bool.and_eq_false_iff, decide_eq_false_iff_not] at this
    omega

/-- The place of an address of a storage or rom mount is the address itself. -/
theorem Mount.cell_of_not_ram {m : Mount} {a : Addr} (p : Params) (h : m.covers a = true) (hk : m.kind ≠ .ram) :
    m.cell p a = a.toNat := by
  simp only [Mount.covers, Bool.and_eq_true, decide_eq_true_eq] at h
  simp only [Mount.cell, Mount.offset, hk, false_and, if_false]
  omega

/-- A store that is neither RAM nor a device stands at the address. -/
def State.keepsAt (s : State) (b : Addr) : Prop := s.kindAt b = some .rom ∨ s.kindAt b = some .storage

theorem State.peek_of_keepsAt {s : State} {b : Addr} (h : s.keepsAt b) : s.peek b = some (s.mem.read b.toNat) := by
  cases hm : s.mountAt b with
  | none => simp [State.keepsAt, State.kindAt, hm] at h
  | some m =>
    have hk : m.kind = .rom ∨ m.kind = .storage := by simpa [State.keepsAt, State.kindAt, hm] using h
    have hc := Mount.cell_of_not_ram s.params (State.mountAt_mem hm).2 (by rcases hk with hk | hk <;> simp [hk])
    have hd : m.kind ≠ .device := by rcases hk with hk | hk <;> simp [hk]
    simp [State.peek, State.cellAt, hm, hd, hc]

/-- Only an address itself has the place of an address that keeps its bytes. -/
theorem State.cell_ne_of_keepsAt {s : State} (hd : s.mounts.Pairwise (fun m n => m.overlaps n = false)) {a b : Addr}
    {m : Mount} (hb : s.keepsAt b) (hm : s.mountAt a = some m) (hne : a ≠ b) : m.cell s.params a ≠ b.toNat := by
  cases hn : s.mountAt b with
  | none => simp [State.keepsAt, State.kindAt, hn] at hb
  | some n =>
    have hk : n.kind = .rom ∨ n.kind = .storage := by simpa [State.keepsAt, State.kindAt, hn] using hb
    have hnr : n.kind ≠ .ram := by rcases hk with hk | hk <;> simp [hk]
    intro he
    have h1 := State.mountAt_mem hm
    have h2 := State.mountAt_mem hn
    have hb1 := Mount.cell_bounds s.params h1.2
    have hb2 : n.start ≤ b.toNat ∧ b.toNat ≤ n.stop := by simpa [Mount.covers] using h2.2
    rw [he] at hb1
    have hmn := State.mount_unique hd h1.1 h2.1 hb1.1 hb1.2 hb2.1 hb2.2
    rw [hmn, Mount.cell_of_not_ram _ (hmn ▸ h1.2) hnr] at he
    exact hne (BitVec.eq_of_toNat_eq he)

/-- After the accesses an address that is not RAM holds the byte written last, a ROM its own. -/
theorem State.replayAll_peek (es : List BusEvent) {s : State}
    (hd : s.mounts.Pairwise (fun m n => m.overlaps n = false)) {b : Addr} :
    (s.kindAt b = some .rom → (es.foldr State.replay s).mem.read b.toNat = s.mem.read b.toNat) ∧
      (s.kindAt b = some .storage → (es.foldr State.replay s).mem.read b.toNat =
        match es.find? (fun e => e.kind == .write && e.addr == b) with
        | some e => e.value
        | none => s.mem.read b.toNat) := by
  induction es with
  | nil => exact ⟨fun _ => rfl, fun _ => rfl⟩
  | cons e rest ih =>
    generalize hu : rest.foldr State.replay s = u at ih
    have hmounts : u.mounts = s.mounts := by simp [← hu]
    have hkind : ∀ a, u.kindAt a = s.kindAt a := fun a => by simp [State.kindAt, State.mountAt, hmounts]
    have hdu : u.mounts.Pairwise (fun m n => m.overlaps n = false) := hmounts ▸ hd
    have hother : e.addr ≠ b → u.keepsAt b → (u.replay e).mem.read b.toNat = u.mem.read b.toNat := by
      intro hne hkeep
      rcases State.replay_mem e u with hm | ⟨_, m, hm, _, hw⟩
      · rw [hm]
      · rw [hw, Memory.read_write_other _ _ (State.cell_ne_of_keepsAt hdu hkeep hm hne)]
    rw [List.foldr_cons, hu]
    refine ⟨fun hr => ?_, fun hs => ?_⟩
    · rw [← ih.1 hr]
      by_cases hab : e.addr = b
      · rcases State.replay_mem e u with hm | ⟨_, m, hm, hk, _⟩
        · rw [hm]
        · have : some m.kind = some .rom := by rw [← hr, ← hkind, ← hab]; simp [State.kindAt, hm]
          rcases hk with hk | hk <;> simp [hk] at this
      · exact hother hab (.inl (by rw [hkind]; exact hr))
    · have ih := ih.2 hs
      by_cases hab : e.addr = b
      · cases hk : e.kind with
        | read =>
          have hm : (u.replay e).mem = u.mem := by
            rcases State.replay_mem e u with hm | ⟨hw, _⟩
            · exact hm
            · simp [hk] at hw
          simp [hm, ih, hk]
        | write =>
          have hu : u.kindAt e.addr = some .storage := by rw [hkind, hab, hs]
          cases hm : u.mountAt e.addr with
          | none => simp [State.kindAt, hm] at hu
          | some m =>
            have hms : m.kind = .storage := by simpa [State.kindAt, hm] using hu
            have hc := Mount.cell_of_not_ram u.params (State.mountAt_mem hm).2 (by simp [hms])
            rw [State.replay_write hk hm (.inr hms), hc, hab]
            simp [hk, hab]
      · rw [hother hab (.inr (by rw [hkind]; exact hs)), ih]
        simp [hab]

/-! The loss of RAM. -/

theorem Memory.wf_filter {m : Memory} (p : Host.Cell → Bool) (h : m.wf = true) : Memory.wf (m.filter p) = true := by
  induction m with
  | nil => rfl
  | cons c rest ih =>
    obtain ⟨k, v⟩ := c
    obtain ⟨hv, hlt, hr⟩ := (Memory.wf_cons k v rest).1 h
    cases hp : p (k, v) <;> simp only [List.filter_cons, hp, if_true, if_false, Bool.false_eq_true]
    · exact ih hr
    · exact (Memory.wf_cons _ _ _).2 ⟨hv, fun c hc => hlt c (List.mem_filter.1 hc).1, ih hr⟩

theorem Memory.read_filter (m : Memory) (p : Nat → Bool) {k : Nat} (h : p k = true) :
    Memory.read (m.filter fun c => p c.1) k = m.read k := by
  induction m with
  | nil => rfl
  | cons c rest ih =>
    obtain ⟨j, v⟩ := c
    by_cases hj : j = k
    · subst hj; simp [h, Memory.read]
    · cases hp : p j <;> simp [hp, Memory.read, hj, ih]

/-- All that the replacing of RAM can change: the byte list, whose canonical form it keeps, and in it no byte of an
address that keeps its bytes. -/
theorem State.replaceRam_spec (bytes : List (Addr × Byte)) (s : State) :
    s.replaceRam bytes = { s with mem := (s.replaceRam bytes).mem } ∧
      (s.mem.wf = true → (s.replaceRam bytes).mem.wf = true) ∧
      (s.mounts.Pairwise (fun m n => m.overlaps n = false) → ∀ b, s.keepsAt b →
        (s.replaceRam bytes).mem.read b.toNat = s.mem.read b.toNat) := by
  unfold State.replaceRam
  have hram : ∀ c ∈ bytes.filter fun b => s.kindAt b.1 == some .ram, s.kindAt c.1 = some .ram :=
    fun c hc => by simpa using (List.mem_filter.1 hc).2
  generalize (bytes.filter fun b => s.kindAt b.1 == some .ram) = l at hram
  induction l with
  | nil =>
    refine ⟨rfl, fun h => Memory.wf_filter _ h, fun hd b hb => ?_⟩
    refine Memory.read_filter s.mem (fun k => !s.isRamCell k) ?_
    cases hm : s.mountAt b with
    | none => simp [State.keepsAt, State.kindAt, hm] at hb
    | some m =>
      have hk : m.kind = .rom ∨ m.kind = .storage := by simpa [State.keepsAt, State.kindAt, hm] using hb
      have hmem := State.mountAt_mem hm
      have hbd : m.start ≤ b.toNat ∧ b.toNat ≤ m.stop := by simpa [Mount.covers] using hmem.2
      simp only [State.isRamCell, Bool.not_eq_true', List.any_eq_false, Bool.and_eq_true, beq_iff_eq, decide_eq_true_eq]
      rintro n hn ⟨⟨hr, h1⟩, h2⟩
      rw [← State.mount_unique hd hmem.1 hn hbd.1 hbd.2 h1 h2] at hr
      rcases hk with hk | hk <;> simp [hk] at hr
  | cons c rest ih =>
    obtain ⟨h1, h2, h3⟩ := ih fun d hd => hram d (List.mem_cons_of_mem _ hd)
    rw [List.foldr_cons]
    generalize rest.foldr (fun b u => u.poke b.1 b.2) (s.setMem (s.mem.filter fun c => !s.isRamCell c.1)) = u
      at h1 h2 h3 ⊢
    have hmounts : u.mounts = s.mounts := by rw [h1]
    have hparams : u.params = s.params := by rw [h1]
    have hcell := State.cellAt_congr hmounts hparams c.1
    have hc := hram c List.mem_cons_self
    cases hm : s.mountAt c.1 with
    | none => simp [State.kindAt, hm] at hc
    | some m =>
      have hk : m.kind = .ram := by simpa [State.kindAt, hm] using hc
      have hcs : u.cellAt c.1 = some (m.cell s.params c.1) := by rw [hcell]; simp [State.cellAt, hm, hk]
      have hp : u.poke c.1 c.2 = u.setMem (u.mem.write (m.cell s.params c.1) c.2) := by simp [State.poke, hcs]
      rw [hp]
      refine ⟨by rw [h1]; rfl, fun h => Memory.wf_write _ _ (h2 h), fun hd b hb => ?_⟩
      have hne : c.1 ≠ b := fun e => by rw [e] at hc; rcases hb with hb | hb <;> simp [hc] at hb
      rw [State.setMem_mem, Memory.read_write_other _ _ (State.cell_ne_of_keepsAt hd hb hm hne)]
      exact h3 hd b hb

/-! The state after an error. -/

/-- What the state after an error says of the accesses made before it. -/
theorem State.afterFault_spec {s : State} {e : Fault} {made : List BusEvent} (h : e.seen = made ++ s.log) :
    (s.afterFault e).draws = s.draws + made.countP (fun c => c.kind == .read && s.kindAt c.addr == some .device) ∧
      (s.afterFault e).mounts = s.mounts ∧ (s.afterFault e).params = s.params ∧
      (s.mem.wf = true → (s.afterFault e).mem.wf = true) ∧
      (s.mounts.Pairwise (fun m n => m.overlaps n = false) → ∀ b,
        (s.kindAt b = some .rom → (s.afterFault e).peek b = s.peek b) ∧
        (s.kindAt b = some .storage → (s.afterFault e).peek b =
          match made.find? (fun c => c.kind == .write && c.addr == b) with
          | some c => some c.value
          | none => s.peek b)) := by
  have hmade : e.seen.take (e.seen.length - s.log.length) = made := by simp [h]
  unfold State.afterFault
  simp only [hmade]
  generalize hu : made.foldr State.replay s = u
  obtain ⟨hr, hwf, hpeek⟩ := State.replaceRam_spec (Config.afterFaultRam u.draws) u
  have hmounts : u.mounts = s.mounts := by simp [← hu]
  have hparams : u.params = s.params := by simp [← hu]
  have hkind : ∀ a, u.kindAt a = s.kindAt a := fun a => by simp [State.kindAt, State.mountAt, hmounts]
  have hm : (u.replaceRam (Config.afterFaultRam u.draws)).mounts = s.mounts := by rw [hr]; exact hmounts
  have hp : (u.replaceRam (Config.afterFaultRam u.draws)).params = s.params := by rw [hr]; exact hparams
  refine ⟨?_, hm, hp, fun hw => hwf (by rw [← hu]; exact State.replayAll_wf made hw), fun hd b => ?_⟩
  · rw [← State.replayAll_draws, hu]
    exact (congrArg State.draws hr).trans rfl
  · have hb := State.replayAll_peek made hd (b := b)
    rw [hu] at hb
    have key : u.keepsAt b → ∀ t : State, t.mounts = s.mounts →
        t.mem = (u.replaceRam (Config.afterFaultRam u.draws)).mem → t.peek b = some (u.mem.read b.toNat) := by
      intro hk t ht htm
      have hk' : t.keepsAt b := by
        simpa [State.keepsAt, State.kindAt, State.mountAt, ht, hmounts] using hk
      rw [State.peek_of_keepsAt hk', htm, hpeek (hmounts ▸ hd) b hk]
    refine ⟨fun hk => ?_, fun hk => ?_⟩
    · refine (key (.inl (by rw [hkind, hk])) _ hm rfl).trans ?_
      rw [hb.1 hk, State.peek_of_keepsAt (.inl hk)]
    · refine (key (.inr (by rw [hkind, hk])) _ hm rfl).trans ?_
      rw [hb.2 hk, State.peek_of_keepsAt (.inr hk)]
      split <;> rfl

end Sys2Proof.Machine
end

