-- ==== Sys2Proof/Laws/PerInstr.lean ====
section
/-! SUPPORT. Statements for all instructions, one lemma for each constructor. InTable: the instruction's pair is one that
30_encoding R110 has a byte for, and the opcode map has a row for its opcode byte. -/

namespace Sys2Proof.Laws.InTable

/-- The instruction's (mnemonic, mode) pair is legal and its opcode byte is assigned. -/
def Statement (i : Instr) : Prop := i.WellFormed ∧ (opcodeTemplate i.opcode).isSome = true

theorem cmpImm (v : Byte) : Statement (.cmpImm v) := ⟨rfl, (rfl : (opcodeTemplate 0xC9).isSome = true)⟩
theorem cmpZp (z : Byte) : Statement (.cmpZp z) := ⟨rfl, (rfl : (opcodeTemplate 0xC5).isSome = true)⟩
theorem cmpZpx (z : Byte) : Statement (.cmpZpx z) := ⟨rfl, (rfl : (opcodeTemplate 0xD5).isSome = true)⟩
theorem cmpAbs (a : Addr) : Statement (.cmpAbs a) := ⟨rfl, (rfl : (opcodeTemplate 0xCD).isSome = true)⟩
theorem cmpAbsx (a : Addr) : Statement (.cmpAbsx a) := ⟨rfl, (rfl : (opcodeTemplate 0xDD).isSome = true)⟩
theorem cmpAbsy (a : Addr) : Statement (.cmpAbsy a) := ⟨rfl, (rfl : (opcodeTemplate 0xD9).isSome = true)⟩
theorem cmpIzx (z : Byte) : Statement (.cmpIzx z) := ⟨rfl, (rfl : (opcodeTemplate 0xC1).isSome = true)⟩
theorem cmpIzy (z : Byte) : Statement (.cmpIzy z) := ⟨rfl, (rfl : (opcodeTemplate 0xD1).isSome = true)⟩
theorem cpxImm (v : Byte) : Statement (.cpxImm v) := ⟨rfl, (rfl : (opcodeTemplate 0xE0).isSome = true)⟩
theorem cpxZp (z : Byte) : Statement (.cpxZp z) := ⟨rfl, (rfl : (opcodeTemplate 0xE4).isSome = true)⟩
theorem cpxAbs (a : Addr) : Statement (.cpxAbs a) := ⟨rfl, (rfl : (opcodeTemplate 0xEC).isSome = true)⟩
theorem cpyImm (v : Byte) : Statement (.cpyImm v) := ⟨rfl, (rfl : (opcodeTemplate 0xC0).isSome = true)⟩
theorem cpyZp (z : Byte) : Statement (.cpyZp z) := ⟨rfl, (rfl : (opcodeTemplate 0xC4).isSome = true)⟩
theorem cpyAbs (a : Addr) : Statement (.cpyAbs a) := ⟨rfl, (rfl : (opcodeTemplate 0xCC).isSome = true)⟩
theorem adcImm (v : Byte) : Statement (.adcImm v) := ⟨rfl, (rfl : (opcodeTemplate 0x69).isSome = true)⟩
theorem adcZp (z : Byte) : Statement (.adcZp z) := ⟨rfl, (rfl : (opcodeTemplate 0x65).isSome = true)⟩
theorem adcZpx (z : Byte) : Statement (.adcZpx z) := ⟨rfl, (rfl : (opcodeTemplate 0x75).isSome = true)⟩
theorem adcAbs (a : Addr) : Statement (.adcAbs a) := ⟨rfl, (rfl : (opcodeTemplate 0x6D).isSome = true)⟩
theorem adcAbsx (a : Addr) : Statement (.adcAbsx a) := ⟨rfl, (rfl : (opcodeTemplate 0x7D).isSome = true)⟩
theorem adcAbsy (a : Addr) : Statement (.adcAbsy a) := ⟨rfl, (rfl : (opcodeTemplate 0x79).isSome = true)⟩
theorem adcIzx (z : Byte) : Statement (.adcIzx z) := ⟨rfl, (rfl : (opcodeTemplate 0x61).isSome = true)⟩
theorem adcIzy (z : Byte) : Statement (.adcIzy z) := ⟨rfl, (rfl : (opcodeTemplate 0x71).isSome = true)⟩
theorem sbcImm (v : Byte) : Statement (.sbcImm v) := ⟨rfl, (rfl : (opcodeTemplate 0xE9).isSome = true)⟩
theorem sbcZp (z : Byte) : Statement (.sbcZp z) := ⟨rfl, (rfl : (opcodeTemplate 0xE5).isSome = true)⟩
theorem sbcZpx (z : Byte) : Statement (.sbcZpx z) := ⟨rfl, (rfl : (opcodeTemplate 0xF5).isSome = true)⟩
theorem sbcAbs (a : Addr) : Statement (.sbcAbs a) := ⟨rfl, (rfl : (opcodeTemplate 0xED).isSome = true)⟩
theorem sbcAbsx (a : Addr) : Statement (.sbcAbsx a) := ⟨rfl, (rfl : (opcodeTemplate 0xFD).isSome = true)⟩
theorem sbcAbsy (a : Addr) : Statement (.sbcAbsy a) := ⟨rfl, (rfl : (opcodeTemplate 0xF9).isSome = true)⟩
theorem sbcIzx (z : Byte) : Statement (.sbcIzx z) := ⟨rfl, (rfl : (opcodeTemplate 0xE1).isSome = true)⟩
theorem sbcIzy (z : Byte) : Statement (.sbcIzy z) := ⟨rfl, (rfl : (opcodeTemplate 0xF1).isSome = true)⟩
theorem andImm (v : Byte) : Statement (.andImm v) := ⟨rfl, (rfl : (opcodeTemplate 0x29).isSome = true)⟩
theorem andZp (z : Byte) : Statement (.andZp z) := ⟨rfl, (rfl : (opcodeTemplate 0x25).isSome = true)⟩
theorem andZpx (z : Byte) : Statement (.andZpx z) := ⟨rfl, (rfl : (opcodeTemplate 0x35).isSome = true)⟩
theorem andAbs (a : Addr) : Statement (.andAbs a) := ⟨rfl, (rfl : (opcodeTemplate 0x2D).isSome = true)⟩
theorem andAbsx (a : Addr) : Statement (.andAbsx a) := ⟨rfl, (rfl : (opcodeTemplate 0x3D).isSome = true)⟩
theorem andAbsy (a : Addr) : Statement (.andAbsy a) := ⟨rfl, (rfl : (opcodeTemplate 0x39).isSome = true)⟩
theorem andIzx (z : Byte) : Statement (.andIzx z) := ⟨rfl, (rfl : (opcodeTemplate 0x21).isSome = true)⟩
theorem andIzy (z : Byte) : Statement (.andIzy z) := ⟨rfl, (rfl : (opcodeTemplate 0x31).isSome = true)⟩
theorem oraImm (v : Byte) : Statement (.oraImm v) := ⟨rfl, (rfl : (opcodeTemplate 0x09).isSome = true)⟩
theorem oraZp (z : Byte) : Statement (.oraZp z) := ⟨rfl, (rfl : (opcodeTemplate 0x05).isSome = true)⟩
theorem oraZpx (z : Byte) : Statement (.oraZpx z) := ⟨rfl, (rfl : (opcodeTemplate 0x15).isSome = true)⟩
theorem oraAbs (a : Addr) : Statement (.oraAbs a) := ⟨rfl, (rfl : (opcodeTemplate 0x0D).isSome = true)⟩
theorem oraAbsx (a : Addr) : Statement (.oraAbsx a) := ⟨rfl, (rfl : (opcodeTemplate 0x1D).isSome = true)⟩
theorem oraAbsy (a : Addr) : Statement (.oraAbsy a) := ⟨rfl, (rfl : (opcodeTemplate 0x19).isSome = true)⟩
theorem oraIzx (z : Byte) : Statement (.oraIzx z) := ⟨rfl, (rfl : (opcodeTemplate 0x01).isSome = true)⟩
theorem oraIzy (z : Byte) : Statement (.oraIzy z) := ⟨rfl, (rfl : (opcodeTemplate 0x11).isSome = true)⟩
theorem eorImm (v : Byte) : Statement (.eorImm v) := ⟨rfl, (rfl : (opcodeTemplate 0x49).isSome = true)⟩
theorem eorZp (z : Byte) : Statement (.eorZp z) := ⟨rfl, (rfl : (opcodeTemplate 0x45).isSome = true)⟩
theorem eorZpx (z : Byte) : Statement (.eorZpx z) := ⟨rfl, (rfl : (opcodeTemplate 0x55).isSome = true)⟩
theorem eorAbs (a : Addr) : Statement (.eorAbs a) := ⟨rfl, (rfl : (opcodeTemplate 0x4D).isSome = true)⟩
theorem eorAbsx (a : Addr) : Statement (.eorAbsx a) := ⟨rfl, (rfl : (opcodeTemplate 0x5D).isSome = true)⟩
theorem eorAbsy (a : Addr) : Statement (.eorAbsy a) := ⟨rfl, (rfl : (opcodeTemplate 0x59).isSome = true)⟩
theorem eorIzx (z : Byte) : Statement (.eorIzx z) := ⟨rfl, (rfl : (opcodeTemplate 0x41).isSome = true)⟩
theorem eorIzy (z : Byte) : Statement (.eorIzy z) := ⟨rfl, (rfl : (opcodeTemplate 0x51).isSome = true)⟩
theorem bitZp (z : Byte) : Statement (.bitZp z) := ⟨rfl, (rfl : (opcodeTemplate 0x24).isSome = true)⟩
theorem bitAbs (a : Addr) : Statement (.bitAbs a) := ⟨rfl, (rfl : (opcodeTemplate 0x2C).isSome = true)⟩
theorem ldaImm (v : Byte) : Statement (.ldaImm v) := ⟨rfl, (rfl : (opcodeTemplate 0xA9).isSome = true)⟩
theorem ldaZp (z : Byte) : Statement (.ldaZp z) := ⟨rfl, (rfl : (opcodeTemplate 0xA5).isSome = true)⟩
theorem ldaZpx (z : Byte) : Statement (.ldaZpx z) := ⟨rfl, (rfl : (opcodeTemplate 0xB5).isSome = true)⟩
theorem ldaAbs (a : Addr) : Statement (.ldaAbs a) := ⟨rfl, (rfl : (opcodeTemplate 0xAD).isSome = true)⟩
theorem ldaAbsx (a : Addr) : Statement (.ldaAbsx a) := ⟨rfl, (rfl : (opcodeTemplate 0xBD).isSome = true)⟩
theorem ldaAbsy (a : Addr) : Statement (.ldaAbsy a) := ⟨rfl, (rfl : (opcodeTemplate 0xB9).isSome = true)⟩
theorem ldaIzx (z : Byte) : Statement (.ldaIzx z) := ⟨rfl, (rfl : (opcodeTemplate 0xA1).isSome = true)⟩
theorem ldaIzy (z : Byte) : Statement (.ldaIzy z) := ⟨rfl, (rfl : (opcodeTemplate 0xB1).isSome = true)⟩
theorem ldxImm (v : Byte) : Statement (.ldxImm v) := ⟨rfl, (rfl : (opcodeTemplate 0xA2).isSome = true)⟩
theorem ldxZp (z : Byte) : Statement (.ldxZp z) := ⟨rfl, (rfl : (opcodeTemplate 0xA6).isSome = true)⟩
theorem ldxZpy (z : Byte) : Statement (.ldxZpy z) := ⟨rfl, (rfl : (opcodeTemplate 0xB6).isSome = true)⟩
theorem ldxAbs (a : Addr) : Statement (.ldxAbs a) := ⟨rfl, (rfl : (opcodeTemplate 0xAE).isSome = true)⟩
theorem ldxAbsy (a : Addr) : Statement (.ldxAbsy a) := ⟨rfl, (rfl : (opcodeTemplate 0xBE).isSome = true)⟩
theorem ldyImm (v : Byte) : Statement (.ldyImm v) := ⟨rfl, (rfl : (opcodeTemplate 0xA0).isSome = true)⟩
theorem ldyZp (z : Byte) : Statement (.ldyZp z) := ⟨rfl, (rfl : (opcodeTemplate 0xA4).isSome = true)⟩
theorem ldyZpx (z : Byte) : Statement (.ldyZpx z) := ⟨rfl, (rfl : (opcodeTemplate 0xB4).isSome = true)⟩
theorem ldyAbs (a : Addr) : Statement (.ldyAbs a) := ⟨rfl, (rfl : (opcodeTemplate 0xAC).isSome = true)⟩
theorem ldyAbsx (a : Addr) : Statement (.ldyAbsx a) := ⟨rfl, (rfl : (opcodeTemplate 0xBC).isSome = true)⟩
theorem staZp (z : Byte) : Statement (.staZp z) := ⟨rfl, (rfl : (opcodeTemplate 0x85).isSome = true)⟩
theorem staZpx (z : Byte) : Statement (.staZpx z) := ⟨rfl, (rfl : (opcodeTemplate 0x95).isSome = true)⟩
theorem staAbs (a : Addr) : Statement (.staAbs a) := ⟨rfl, (rfl : (opcodeTemplate 0x8D).isSome = true)⟩
theorem staAbsx (a : Addr) : Statement (.staAbsx a) := ⟨rfl, (rfl : (opcodeTemplate 0x9D).isSome = true)⟩
theorem staAbsy (a : Addr) : Statement (.staAbsy a) := ⟨rfl, (rfl : (opcodeTemplate 0x99).isSome = true)⟩
theorem staIzx (z : Byte) : Statement (.staIzx z) := ⟨rfl, (rfl : (opcodeTemplate 0x81).isSome = true)⟩
theorem staIzy (z : Byte) : Statement (.staIzy z) := ⟨rfl, (rfl : (opcodeTemplate 0x91).isSome = true)⟩
theorem stxZp (z : Byte) : Statement (.stxZp z) := ⟨rfl, (rfl : (opcodeTemplate 0x86).isSome = true)⟩
theorem stxZpy (z : Byte) : Statement (.stxZpy z) := ⟨rfl, (rfl : (opcodeTemplate 0x96).isSome = true)⟩
theorem stxAbs (a : Addr) : Statement (.stxAbs a) := ⟨rfl, (rfl : (opcodeTemplate 0x8E).isSome = true)⟩
theorem styZp (z : Byte) : Statement (.styZp z) := ⟨rfl, (rfl : (opcodeTemplate 0x84).isSome = true)⟩
theorem styZpx (z : Byte) : Statement (.styZpx z) := ⟨rfl, (rfl : (opcodeTemplate 0x94).isSome = true)⟩
theorem styAbs (a : Addr) : Statement (.styAbs a) := ⟨rfl, (rfl : (opcodeTemplate 0x8C).isSome = true)⟩
theorem tax : Statement .tax := ⟨rfl, (rfl : (opcodeTemplate 0xAA).isSome = true)⟩
theorem tay : Statement .tay := ⟨rfl, (rfl : (opcodeTemplate 0xA8).isSome = true)⟩
theorem txa : Statement .txa := ⟨rfl, (rfl : (opcodeTemplate 0x8A).isSome = true)⟩
theorem tya : Statement .tya := ⟨rfl, (rfl : (opcodeTemplate 0x98).isSome = true)⟩
theorem tsx : Statement .tsx := ⟨rfl, (rfl : (opcodeTemplate 0xBA).isSome = true)⟩
theorem txs : Statement .txs := ⟨rfl, (rfl : (opcodeTemplate 0x9A).isSome = true)⟩
theorem incZp (z : Byte) : Statement (.incZp z) := ⟨rfl, (rfl : (opcodeTemplate 0xE6).isSome = true)⟩
theorem incZpx (z : Byte) : Statement (.incZpx z) := ⟨rfl, (rfl : (opcodeTemplate 0xF6).isSome = true)⟩
theorem incAbs (a : Addr) : Statement (.incAbs a) := ⟨rfl, (rfl : (opcodeTemplate 0xEE).isSome = true)⟩
theorem incAbsx (a : Addr) : Statement (.incAbsx a) := ⟨rfl, (rfl : (opcodeTemplate 0xFE).isSome = true)⟩
theorem decZp (z : Byte) : Statement (.decZp z) := ⟨rfl, (rfl : (opcodeTemplate 0xC6).isSome = true)⟩
theorem decZpx (z : Byte) : Statement (.decZpx z) := ⟨rfl, (rfl : (opcodeTemplate 0xD6).isSome = true)⟩
theorem decAbs (a : Addr) : Statement (.decAbs a) := ⟨rfl, (rfl : (opcodeTemplate 0xCE).isSome = true)⟩
theorem decAbsx (a : Addr) : Statement (.decAbsx a) := ⟨rfl, (rfl : (opcodeTemplate 0xDE).isSome = true)⟩
theorem inx : Statement .inx := ⟨rfl, (rfl : (opcodeTemplate 0xE8).isSome = true)⟩
theorem iny : Statement .iny := ⟨rfl, (rfl : (opcodeTemplate 0xC8).isSome = true)⟩
theorem dex : Statement .dex := ⟨rfl, (rfl : (opcodeTemplate 0xCA).isSome = true)⟩
theorem dey : Statement .dey := ⟨rfl, (rfl : (opcodeTemplate 0x88).isSome = true)⟩
theorem aslAcc : Statement .aslAcc := ⟨rfl, (rfl : (opcodeTemplate 0x0A).isSome = true)⟩
theorem aslZp (z : Byte) : Statement (.aslZp z) := ⟨rfl, (rfl : (opcodeTemplate 0x06).isSome = true)⟩
theorem aslZpx (z : Byte) : Statement (.aslZpx z) := ⟨rfl, (rfl : (opcodeTemplate 0x16).isSome = true)⟩
theorem aslAbs (a : Addr) : Statement (.aslAbs a) := ⟨rfl, (rfl : (opcodeTemplate 0x0E).isSome = true)⟩
theorem aslAbsx (a : Addr) : Statement (.aslAbsx a) := ⟨rfl, (rfl : (opcodeTemplate 0x1E).isSome = true)⟩
theorem lsrAcc : Statement .lsrAcc := ⟨rfl, (rfl : (opcodeTemplate 0x4A).isSome = true)⟩
theorem lsrZp (z : Byte) : Statement (.lsrZp z) := ⟨rfl, (rfl : (opcodeTemplate 0x46).isSome = true)⟩
theorem lsrZpx (z : Byte) : Statement (.lsrZpx z) := ⟨rfl, (rfl : (opcodeTemplate 0x56).isSome = true)⟩
theorem lsrAbs (a : Addr) : Statement (.lsrAbs a) := ⟨rfl, (rfl : (opcodeTemplate 0x4E).isSome = true)⟩
theorem lsrAbsx (a : Addr) : Statement (.lsrAbsx a) := ⟨rfl, (rfl : (opcodeTemplate 0x5E).isSome = true)⟩
theorem rolAcc : Statement .rolAcc := ⟨rfl, (rfl : (opcodeTemplate 0x2A).isSome = true)⟩
theorem rolZp (z : Byte) : Statement (.rolZp z) := ⟨rfl, (rfl : (opcodeTemplate 0x26).isSome = true)⟩
theorem rolZpx (z : Byte) : Statement (.rolZpx z) := ⟨rfl, (rfl : (opcodeTemplate 0x36).isSome = true)⟩
theorem rolAbs (a : Addr) : Statement (.rolAbs a) := ⟨rfl, (rfl : (opcodeTemplate 0x2E).isSome = true)⟩
theorem rolAbsx (a : Addr) : Statement (.rolAbsx a) := ⟨rfl, (rfl : (opcodeTemplate 0x3E).isSome = true)⟩
theorem rorAcc : Statement .rorAcc := ⟨rfl, (rfl : (opcodeTemplate 0x6A).isSome = true)⟩
theorem rorZp (z : Byte) : Statement (.rorZp z) := ⟨rfl, (rfl : (opcodeTemplate 0x66).isSome = true)⟩
theorem rorZpx (z : Byte) : Statement (.rorZpx z) := ⟨rfl, (rfl : (opcodeTemplate 0x76).isSome = true)⟩
theorem rorAbs (a : Addr) : Statement (.rorAbs a) := ⟨rfl, (rfl : (opcodeTemplate 0x6E).isSome = true)⟩
theorem rorAbsx (a : Addr) : Statement (.rorAbsx a) := ⟨rfl, (rfl : (opcodeTemplate 0x7E).isSome = true)⟩
theorem pha : Statement .pha := ⟨rfl, (rfl : (opcodeTemplate 0x48).isSome = true)⟩
theorem php : Statement .php := ⟨rfl, (rfl : (opcodeTemplate 0x08).isSome = true)⟩
theorem pla : Statement .pla := ⟨rfl, (rfl : (opcodeTemplate 0x68).isSome = true)⟩
theorem plp : Statement .plp := ⟨rfl, (rfl : (opcodeTemplate 0x28).isSome = true)⟩
theorem jmpAbs (a : Addr) : Statement (.jmpAbs a) := ⟨rfl, (rfl : (opcodeTemplate 0x4C).isSome = true)⟩
theorem jmpInd (p : Addr) : Statement (.jmpInd p) := ⟨rfl, (rfl : (opcodeTemplate 0x6C).isSome = true)⟩
theorem jsr (a : Addr) : Statement (.jsr a) := ⟨rfl, (rfl : (opcodeTemplate 0x20).isSome = true)⟩
theorem rts : Statement .rts := ⟨rfl, (rfl : (opcodeTemplate 0x60).isSome = true)⟩
theorem rti : Statement .rti := ⟨rfl, (rfl : (opcodeTemplate 0x40).isSome = true)⟩
theorem bcc (d : Byte) : Statement (.bcc d) := ⟨rfl, (rfl : (opcodeTemplate 0x90).isSome = true)⟩
theorem bcs (d : Byte) : Statement (.bcs d) := ⟨rfl, (rfl : (opcodeTemplate 0xB0).isSome = true)⟩
theorem beq (d : Byte) : Statement (.beq d) := ⟨rfl, (rfl : (opcodeTemplate 0xF0).isSome = true)⟩
theorem bne (d : Byte) : Statement (.bne d) := ⟨rfl, (rfl : (opcodeTemplate 0xD0).isSome = true)⟩
theorem bmi (d : Byte) : Statement (.bmi d) := ⟨rfl, (rfl : (opcodeTemplate 0x30).isSome = true)⟩
theorem bpl (d : Byte) : Statement (.bpl d) := ⟨rfl, (rfl : (opcodeTemplate 0x10).isSome = true)⟩
theorem bvc (d : Byte) : Statement (.bvc d) := ⟨rfl, (rfl : (opcodeTemplate 0x50).isSome = true)⟩
theorem bvs (d : Byte) : Statement (.bvs d) := ⟨rfl, (rfl : (opcodeTemplate 0x70).isSome = true)⟩
theorem clc : Statement .clc := ⟨rfl, (rfl : (opcodeTemplate 0x18).isSome = true)⟩
theorem sec : Statement .sec := ⟨rfl, (rfl : (opcodeTemplate 0x38).isSome = true)⟩
theorem cld : Statement .cld := ⟨rfl, (rfl : (opcodeTemplate 0xD8).isSome = true)⟩
theorem sed : Statement .sed := ⟨rfl, (rfl : (opcodeTemplate 0xF8).isSome = true)⟩
theorem cli : Statement .cli := ⟨rfl, (rfl : (opcodeTemplate 0x58).isSome = true)⟩
theorem sei : Statement .sei := ⟨rfl, (rfl : (opcodeTemplate 0x78).isSome = true)⟩
theorem clv : Statement .clv := ⟨rfl, (rfl : (opcodeTemplate 0xB8).isSome = true)⟩
theorem nop : Statement .nop := ⟨rfl, (rfl : (opcodeTemplate 0xEA).isSome = true)⟩
theorem brk : Statement .brk := ⟨rfl, (rfl : (opcodeTemplate 0x00).isSome = true)⟩

end Sys2Proof.Laws.InTable
end

