-- ==== Sys2Proof/Tests/Slice0.lean ====
section
/-! SUPPORT. Tests by decide: the ill-formed pairs the check refuses; every opcode byte of the table of 30_encoding R109 decoded from
words written out from it; single steps of 95_test_vectors (each theorem names its vector); for each obligation with
hypotheses, states and operands that meet them. -/

namespace Sys2Proof.Tests
open Sys2Proof.Machine

/-! The check on pairs (30_encoding R110, 60_exceptions R404). -/

theorem test_illFormed_pairs :
    legalForm (.sta, .immediate 5) = false ∧ legalForm (.inc, .immediate 5) = false ∧
      legalForm (.asl, .immediate 5) = false ∧ legalForm (.lda, .implied) = false ∧
      legalForm (.adc, .accumulator) = false ∧ legalForm (.sta, .relative 5) = false ∧
      legalForm (.ldx, .zeroPageX 5) = false ∧ legalForm (.stx, .absoluteY 5) = false ∧
      legalForm (.jmp, .absoluteX 5) = false ∧ legalForm (.jsr, .indirect 5) = false ∧
      legalForm (.bit, .immediate 5) = false ∧ legalForm (.tax, .zeroPage 5) = false ∧
      legalForm (.bne, .absolute 5) = false ∧ legalForm (.brk, .immediate 5) = false := by decide

theorem test_wellFormed_pairs :
    legalForm (.lda, .indexedIndirect 0xFF) = true ∧ legalForm (.jmp, .indirect 0xFFFF) = true ∧
      legalForm (.asl, .accumulator) = true ∧ legalForm (.bne, .relative 0x80) = true ∧
      legalForm (.brk, .implied) = true := by decide

/-! Decoding: each row of the table of 30_encoding R109, the operand bytes 9A and (low byte first) 34 12. -/

theorem test_decode_row_0 :
    decode [0x00] = .ok .brk [] ∧
      decode [0x01, 0x9A] = .ok (.oraIzx 0x9A) [] ∧
      decode [0x05, 0x9A] = .ok (.oraZp 0x9A) [] ∧
      decode [0x06, 0x9A] = .ok (.aslZp 0x9A) [] ∧
      decode [0x08] = .ok .php [] ∧
      decode [0x09, 0x9A] = .ok (.oraImm 0x9A) [] ∧
      decode [0x0A] = .ok .aslAcc [] ∧
      decode [0x0D, 0x34, 0x12] = .ok (.oraAbs 0x1234) [] ∧
      decode [0x0E, 0x34, 0x12] = .ok (.aslAbs 0x1234) [] := by decide

theorem test_decode_row_1 :
    decode [0x10, 0x9A] = .ok (.bpl 0x9A) [] ∧
      decode [0x11, 0x9A] = .ok (.oraIzy 0x9A) [] ∧
      decode [0x15, 0x9A] = .ok (.oraZpx 0x9A) [] ∧
      decode [0x16, 0x9A] = .ok (.aslZpx 0x9A) [] ∧
      decode [0x18] = .ok .clc [] ∧
      decode [0x19, 0x34, 0x12] = .ok (.oraAbsy 0x1234) [] ∧
      decode [0x1D, 0x34, 0x12] = .ok (.oraAbsx 0x1234) [] ∧
      decode [0x1E, 0x34, 0x12] = .ok (.aslAbsx 0x1234) [] := by decide

theorem test_decode_row_2 :
    decode [0x20, 0x34, 0x12] = .ok (.jsr 0x1234) [] ∧
      decode [0x21, 0x9A] = .ok (.andIzx 0x9A) [] ∧
      decode [0x24, 0x9A] = .ok (.bitZp 0x9A) [] ∧
      decode [0x25, 0x9A] = .ok (.andZp 0x9A) [] ∧
      decode [0x26, 0x9A] = .ok (.rolZp 0x9A) [] ∧
      decode [0x28] = .ok .plp [] ∧
      decode [0x29, 0x9A] = .ok (.andImm 0x9A) [] ∧
      decode [0x2A] = .ok .rolAcc [] ∧
      decode [0x2C, 0x34, 0x12] = .ok (.bitAbs 0x1234) [] ∧
      decode [0x2D, 0x34, 0x12] = .ok (.andAbs 0x1234) [] ∧
      decode [0x2E, 0x34, 0x12] = .ok (.rolAbs 0x1234) [] := by decide

theorem test_decode_row_3 :
    decode [0x30, 0x9A] = .ok (.bmi 0x9A) [] ∧
      decode [0x31, 0x9A] = .ok (.andIzy 0x9A) [] ∧
      decode [0x35, 0x9A] = .ok (.andZpx 0x9A) [] ∧
      decode [0x36, 0x9A] = .ok (.rolZpx 0x9A) [] ∧
      decode [0x38] = .ok .sec [] ∧
      decode [0x39, 0x34, 0x12] = .ok (.andAbsy 0x1234) [] ∧
      decode [0x3D, 0x34, 0x12] = .ok (.andAbsx 0x1234) [] ∧
      decode [0x3E, 0x34, 0x12] = .ok (.rolAbsx 0x1234) [] := by decide

theorem test_decode_row_4 :
    decode [0x40] = .ok .rti [] ∧
      decode [0x41, 0x9A] = .ok (.eorIzx 0x9A) [] ∧
      decode [0x45, 0x9A] = .ok (.eorZp 0x9A) [] ∧
      decode [0x46, 0x9A] = .ok (.lsrZp 0x9A) [] ∧
      decode [0x48] = .ok .pha [] ∧
      decode [0x49, 0x9A] = .ok (.eorImm 0x9A) [] ∧
      decode [0x4A] = .ok .lsrAcc [] ∧
      decode [0x4C, 0x34, 0x12] = .ok (.jmpAbs 0x1234) [] ∧
      decode [0x4D, 0x34, 0x12] = .ok (.eorAbs 0x1234) [] ∧
      decode [0x4E, 0x34, 0x12] = .ok (.lsrAbs 0x1234) [] := by decide

theorem test_decode_row_5 :
    decode [0x50, 0x9A] = .ok (.bvc 0x9A) [] ∧
      decode [0x51, 0x9A] = .ok (.eorIzy 0x9A) [] ∧
      decode [0x55, 0x9A] = .ok (.eorZpx 0x9A) [] ∧
      decode [0x56, 0x9A] = .ok (.lsrZpx 0x9A) [] ∧
      decode [0x58] = .ok .cli [] ∧
      decode [0x59, 0x34, 0x12] = .ok (.eorAbsy 0x1234) [] ∧
      decode [0x5D, 0x34, 0x12] = .ok (.eorAbsx 0x1234) [] ∧
      decode [0x5E, 0x34, 0x12] = .ok (.lsrAbsx 0x1234) [] := by decide

theorem test_decode_row_6 :
    decode [0x60] = .ok .rts [] ∧
      decode [0x61, 0x9A] = .ok (.adcIzx 0x9A) [] ∧
      decode [0x65, 0x9A] = .ok (.adcZp 0x9A) [] ∧
      decode [0x66, 0x9A] = .ok (.rorZp 0x9A) [] ∧
      decode [0x68] = .ok .pla [] ∧
      decode [0x69, 0x9A] = .ok (.adcImm 0x9A) [] ∧
      decode [0x6A] = .ok .rorAcc [] ∧
      decode [0x6C, 0x34, 0x12] = .ok (.jmpInd 0x1234) [] ∧
      decode [0x6D, 0x34, 0x12] = .ok (.adcAbs 0x1234) [] ∧
      decode [0x6E, 0x34, 0x12] = .ok (.rorAbs 0x1234) [] := by decide

theorem test_decode_row_7 :
    decode [0x70, 0x9A] = .ok (.bvs 0x9A) [] ∧
      decode [0x71, 0x9A] = .ok (.adcIzy 0x9A) [] ∧
      decode [0x75, 0x9A] = .ok (.adcZpx 0x9A) [] ∧
      decode [0x76, 0x9A] = .ok (.rorZpx 0x9A) [] ∧
      decode [0x78] = .ok .sei [] ∧
      decode [0x79, 0x34, 0x12] = .ok (.adcAbsy 0x1234) [] ∧
      decode [0x7D, 0x34, 0x12] = .ok (.adcAbsx 0x1234) [] ∧
      decode [0x7E, 0x34, 0x12] = .ok (.rorAbsx 0x1234) [] := by decide

theorem test_decode_row_8 :
    decode [0x81, 0x9A] = .ok (.staIzx 0x9A) [] ∧
      decode [0x84, 0x9A] = .ok (.styZp 0x9A) [] ∧
      decode [0x85, 0x9A] = .ok (.staZp 0x9A) [] ∧
      decode [0x86, 0x9A] = .ok (.stxZp 0x9A) [] ∧
      decode [0x88] = .ok .dey [] ∧
      decode [0x8A] = .ok .txa [] ∧
      decode [0x8C, 0x34, 0x12] = .ok (.styAbs 0x1234) [] ∧
      decode [0x8D, 0x34, 0x12] = .ok (.staAbs 0x1234) [] ∧
      decode [0x8E, 0x34, 0x12] = .ok (.stxAbs 0x1234) [] := by decide

theorem test_decode_row_9 :
    decode [0x90, 0x9A] = .ok (.bcc 0x9A) [] ∧
      decode [0x91, 0x9A] = .ok (.staIzy 0x9A) [] ∧
      decode [0x94, 0x9A] = .ok (.styZpx 0x9A) [] ∧
      decode [0x95, 0x9A] = .ok (.staZpx 0x9A) [] ∧
      decode [0x96, 0x9A] = .ok (.stxZpy 0x9A) [] ∧
      decode [0x98] = .ok .tya [] ∧
      decode [0x99, 0x34, 0x12] = .ok (.staAbsy 0x1234) [] ∧
      decode [0x9A] = .ok .txs [] ∧
      decode [0x9D, 0x34, 0x12] = .ok (.staAbsx 0x1234) [] := by decide

theorem test_decode_row_A :
    decode [0xA0, 0x9A] = .ok (.ldyImm 0x9A) [] ∧
      decode [0xA1, 0x9A] = .ok (.ldaIzx 0x9A) [] ∧
      decode [0xA2, 0x9A] = .ok (.ldxImm 0x9A) [] ∧
      decode [0xA4, 0x9A] = .ok (.ldyZp 0x9A) [] ∧
      decode [0xA5, 0x9A] = .ok (.ldaZp 0x9A) [] ∧
      decode [0xA6, 0x9A] = .ok (.ldxZp 0x9A) [] ∧
      decode [0xA8] = .ok .tay [] ∧
      decode [0xA9, 0x9A] = .ok (.ldaImm 0x9A) [] ∧
      decode [0xAA] = .ok .tax [] ∧
      decode [0xAC, 0x34, 0x12] = .ok (.ldyAbs 0x1234) [] ∧
      decode [0xAD, 0x34, 0x12] = .ok (.ldaAbs 0x1234) [] ∧
      decode [0xAE, 0x34, 0x12] = .ok (.ldxAbs 0x1234) [] := by decide

theorem test_decode_row_B :
    decode [0xB0, 0x9A] = .ok (.bcs 0x9A) [] ∧
      decode [0xB1, 0x9A] = .ok (.ldaIzy 0x9A) [] ∧
      decode [0xB4, 0x9A] = .ok (.ldyZpx 0x9A) [] ∧
      decode [0xB5, 0x9A] = .ok (.ldaZpx 0x9A) [] ∧
      decode [0xB6, 0x9A] = .ok (.ldxZpy 0x9A) [] ∧
      decode [0xB8] = .ok .clv [] ∧
      decode [0xB9, 0x34, 0x12] = .ok (.ldaAbsy 0x1234) [] ∧
      decode [0xBA] = .ok .tsx [] ∧
      decode [0xBC, 0x34, 0x12] = .ok (.ldyAbsx 0x1234) [] ∧
      decode [0xBD, 0x34, 0x12] = .ok (.ldaAbsx 0x1234) [] ∧
      decode [0xBE, 0x34, 0x12] = .ok (.ldxAbsy 0x1234) [] := by decide

theorem test_decode_row_C :
    decode [0xC0, 0x9A] = .ok (.cpyImm 0x9A) [] ∧
      decode [0xC1, 0x9A] = .ok (.cmpIzx 0x9A) [] ∧
      decode [0xC4, 0x9A] = .ok (.cpyZp 0x9A) [] ∧
      decode [0xC5, 0x9A] = .ok (.cmpZp 0x9A) [] ∧
      decode [0xC6, 0x9A] = .ok (.decZp 0x9A) [] ∧
      decode [0xC8] = .ok .iny [] ∧
      decode [0xC9, 0x9A] = .ok (.cmpImm 0x9A) [] ∧
      decode [0xCA] = .ok .dex [] ∧
      decode [0xCC, 0x34, 0x12] = .ok (.cpyAbs 0x1234) [] ∧
      decode [0xCD, 0x34, 0x12] = .ok (.cmpAbs 0x1234) [] ∧
      decode [0xCE, 0x34, 0x12] = .ok (.decAbs 0x1234) [] := by decide

theorem test_decode_row_D :
    decode [0xD0, 0x9A] = .ok (.bne 0x9A) [] ∧
      decode [0xD1, 0x9A] = .ok (.cmpIzy 0x9A) [] ∧
      decode [0xD5, 0x9A] = .ok (.cmpZpx 0x9A) [] ∧
      decode [0xD6, 0x9A] = .ok (.decZpx 0x9A) [] ∧
      decode [0xD8] = .ok .cld [] ∧
      decode [0xD9, 0x34, 0x12] = .ok (.cmpAbsy 0x1234) [] ∧
      decode [0xDD, 0x34, 0x12] = .ok (.cmpAbsx 0x1234) [] ∧
      decode [0xDE, 0x34, 0x12] = .ok (.decAbsx 0x1234) [] := by decide

theorem test_decode_row_E :
    decode [0xE0, 0x9A] = .ok (.cpxImm 0x9A) [] ∧
      decode [0xE1, 0x9A] = .ok (.sbcIzx 0x9A) [] ∧
      decode [0xE4, 0x9A] = .ok (.cpxZp 0x9A) [] ∧
      decode [0xE5, 0x9A] = .ok (.sbcZp 0x9A) [] ∧
      decode [0xE6, 0x9A] = .ok (.incZp 0x9A) [] ∧
      decode [0xE8] = .ok .inx [] ∧
      decode [0xE9, 0x9A] = .ok (.sbcImm 0x9A) [] ∧
      decode [0xEA] = .ok .nop [] ∧
      decode [0xEC, 0x34, 0x12] = .ok (.cpxAbs 0x1234) [] ∧
      decode [0xED, 0x34, 0x12] = .ok (.sbcAbs 0x1234) [] ∧
      decode [0xEE, 0x34, 0x12] = .ok (.incAbs 0x1234) [] := by decide

theorem test_decode_row_F :
    decode [0xF0, 0x9A] = .ok (.beq 0x9A) [] ∧
      decode [0xF1, 0x9A] = .ok (.sbcIzy 0x9A) [] ∧
      decode [0xF5, 0x9A] = .ok (.sbcZpx 0x9A) [] ∧
      decode [0xF6, 0x9A] = .ok (.incZpx 0x9A) [] ∧
      decode [0xF8] = .ok .sed [] ∧
      decode [0xF9, 0x34, 0x12] = .ok (.sbcAbsy 0x1234) [] ∧
      decode [0xFD, 0x34, 0x12] = .ok (.sbcAbsx 0x1234) [] ∧
      decode [0xFE, 0x34, 0x12] = .ok (.incAbsx 0x1234) [] := by decide

/-- The bytes after the instruction are left; an unassigned byte and a cut-off instruction are named. -/
theorem test_decode_ends :
    decode [0x4C, 0x34, 0x12, 0xEA] = .ok (.jmpAbs 0x1234) [0xEA] ∧ decode [0x02, 0xEA] = .unknownOpcode 0x02 ∧
      decode [0x89, 0x00] = .unknownOpcode 0x89 ∧ decode [0x9E] = .unknownOpcode 0x9E ∧
      decode [0xAD, 0x34] = .truncated ∧ decode [0xA9] = .truncated ∧ decode [] = .truncated := by decide

/-- A word of the opcode table: bit 0 is the least significant bit of the first byte. -/
theorem test_decodeTableWord :
    decodeTableWord 8 0x6C = some (.jmpInd 0x0000) ∧ decodeTableWord 24 0x12346C = some (.jmpInd 0x1234) ∧
      decodeTableWord 16 0xFE12D0 = some (.bne 0x12) ∧ decodeTableWord 8 0xFF = none := by decide

/-! One step. -/

/-- The launch with code at an address (30_encoding R100) and bytes of data; a byte above the default RAM gets a one-byte
storage mount, as the conventions of 95_test_vectors say. -/
def code (pc : Addr) (bytes : List Byte) (data : List (Addr × Byte)) : Launch :=
  { Launch.default with
    pc := pc
    mounts := (data.filter fun d => decide (0x1FFF < d.1.toNat)).map fun d => ⟨d.1.toNat, d.1.toNat, .storage⟩
    bytes := ((List.range bytes.length).zip bytes).map (fun b => (pc + BitVec.ofNat 16 b.1, b.2)) ++ data }

/-- A read at an address. -/
def rd (a : Addr) : AccessKind × Addr := (.read, a)
/-- A write at an address. -/
def wr (a : Addr) : AccessKind × Addr := (.write, a)

/-- The accesses of a log, oldest first, without their values. -/
def accesses (log : List BusEvent) : List (AccessKind × Addr) := log.reverse.map fun e => (e.kind, e.addr)

/-- One step from the launch ends with these A, X, Y, SP and P, this PC, these accesses and these bytes. -/
def endsAs (l : Launch) (regs : List Byte) (pc : Addr) (acc : List (AccessKind × Addr)) (bytes : List (Addr × Byte)) :
    Bool :=
  match bindState (construct l) step with
  | .next t =>
    decide ([t.a, t.x, t.y, t.sp, t.p] = regs) && decide (t.pc = pc) && decide (accesses t.log = acc) &&
      bytes.all fun b => decide (t.peek b.1 = some b.2)
  | .fault _ => false
  | .refused _ => false

/-- One step from the launch raises UnmappedAddress after these accesses. -/
def faultsUnmapped (l : Launch) (a : Addr) (k : AccessKind) (acc : List (AccessKind × Addr)) : Bool :=
  match bindState (construct l) step with
  | .fault (.unmappedAddress b j seen) => decide (b = a) && decide (j = k) && decide (accesses seen = acc)
  | _ => false

/-- One step from the launch raises UnknownOpcode after these accesses. -/
def faultsUnknown (l : Launch) (op : Byte) (a : Addr) (acc : List (AccessKind × Addr)) : Bool :=
  match bindState (construct l) step with
  | .fault (.unknownOpcode o b seen) => decide (o = op) && decide (b = a) && decide (accesses seen = acc)
  | _ => false

/-- The word of the table runs as the first instruction after reset. -/
theorem test_withFetchWord :
    (match step (State.reset.withFetchWord 16 0x80A9) with
      | .next t => decide (t.a = 0x80 ∧ t.pc = 0x0002 ∧ t.p = 0xA4)
      | _ => false) = true := by decide

theorem test_V2 :
    endsAs { code 0x0200 [0xC9, 0x42] [] with a := 0x42 } [0x42, 0x00, 0x00, 0xFD, 0x27] 0x0202
      [rd 0x0200, rd 0x0201] [] = true := by decide
theorem test_V5 :
    endsAs { code 0x0200 [0xE0, 0x05] [] with x := 0x06 } [0x00, 0x06, 0x00, 0xFD, 0x25] 0x0202
      [rd 0x0200, rd 0x0201] [] = true := by decide
theorem test_V6 :
    endsAs { code 0x0200 [0xC4, 0x10] [(0x0010, 0x01)] with y := 0x00 } [0x00, 0x00, 0x00, 0xFD, 0xA4] 0x0202
      [rd 0x0200, rd 0x0201, rd 0x0010] [] = true := by decide
theorem test_V7 :
    endsAs { code 0x0200 [0xD1, 0x10] [(0x0010, 0x00), (0x0011, 0x03), (0x0301, 0x33)] with a := 0x33, y := 0x01 }
      [0x33, 0x00, 0x01, 0xFD, 0x27] 0x0202 [rd 0x0200, rd 0x0201, rd 0x0010, rd 0x0011,
        rd 0x0301] [] = true := by decide
theorem test_V10 :
    endsAs { code 0x0200 [0x69, 0x01] [] with a := 0x7F } [0x80, 0x00, 0x00, 0xFD, 0xE4] 0x0202
      [rd 0x0200, rd 0x0201] [] = true := by decide
theorem test_V13 :
    endsAs { code 0x0200 [0x69, 0xFF] [] with a := 0x10, p := 0x25 } [0x10, 0x00, 0x00, 0xFD, 0x25] 0x0202
      [rd 0x0200, rd 0x0201] [] = true := by decide
theorem test_V16 :
    endsAs { code 0x0200 [0xE9, 0x00] [] with a := 0x05, p := 0x25 } [0x05, 0x00, 0x00, 0xFD, 0x25] 0x0202
      [rd 0x0200, rd 0x0201] [] = true := by decide
theorem test_V20 :
    endsAs { code 0x0200 [0xE9, 0xF0] [] with a := 0x50, p := 0x25 } [0x60, 0x00, 0x00, 0xFD, 0x24] 0x0202
      [rd 0x0200, rd 0x0201] [] = true := by decide
theorem test_V30 :
    endsAs { code 0x0200 [0x29, 0x0F] [] with a := 0xF3 } [0x03, 0x00, 0x00, 0xFD, 0x24] 0x0202
      [rd 0x0200, rd 0x0201] [] = true := by decide
theorem test_V32 :
    endsAs { code 0x0200 [0x09, 0x80] [] with a := 0x01 } [0x81, 0x00, 0x00, 0xFD, 0xA4] 0x0202
      [rd 0x0200, rd 0x0201] [] = true := by decide
theorem test_V33 :
    endsAs { code 0x0200 [0x49, 0xFF] [] with a := 0xFF } [0x00, 0x00, 0x00, 0xFD, 0x26] 0x0202
      [rd 0x0200, rd 0x0201] [] = true := by decide
theorem test_V36 :
    endsAs { code 0x0200 [0x2C, 0x00, 0x03] [(0x0300, 0x40)] with a := 0x40, p := 0xE6 }
      [0x40, 0x00, 0x00, 0xFD, 0x64] 0x0203 [rd 0x0200, rd 0x0201, rd 0x0202, rd 0x0300] [] = true := by decide
theorem test_V43 :
    endsAs { code 0x0200 [0xB6, 0xFF] [(0x0000, 0x07)] with y := 0x01 } [0x00, 0x07, 0x01, 0xFD, 0x24] 0x0202
      [rd 0x0200, rd 0x0201, rd 0x0000] [] = true := by decide
theorem test_V44 :
    endsAs { code 0x0200 [0xBC, 0xFF, 0xFF] [(0x0000, 0x99)] with x := 0x01 }
      [0x00, 0x01, 0x99, 0xFD, 0xA4] 0x0203 [rd 0x0200, rd 0x0201, rd 0x0202, rd 0x0000] [] = true := by decide
theorem test_V45 :
    faultsUnmapped { code 0x0200 [0xBC, 0xFF, 0x1F] [] with x := 0x01 } 0x2000 .read
      [rd 0x0200, rd 0x0201, rd 0x0202] = true := by decide
theorem test_V46 :
    endsAs { code 0x0200 [0xB1, 0xFF]
      [(0x0000, 0x04), (0x00FF, 0x00), (0x0100, 0x03), (0x0301, 0x11), (0x0401, 0x22)] with y := 0x01 } [0x11, 0x00,
        0x01, 0xFD, 0x24] 0x0202 [rd 0x0200, rd 0x0201, rd 0x00FF, rd 0x0100, rd 0x0301] [] = true := by decide
theorem test_V47 :
    endsAs { code 0x0200 [0xB1, 0xFF]
      [(0x0000, 0x04), (0x00FF, 0x00), (0x0100, 0x03), (0x0301, 0x11), (0x0401, 0x22)] with
        y := 0x01
        params := { Params.default with zpPointerWrap := true } } [0x22, 0x00, 0x01, 0xFD, 0x24] 0x0202 [rd 0x0200,
        rd 0x0201, rd 0x00FF, rd 0x0000, rd 0x0401] [] = true := by decide
theorem test_V49 :
    endsAs { code 0x0200 [0xA1, 0xFE]
      [(0x0000, 0x04), (0x00FF, 0x00), (0x0100, 0x03), (0x0300, 0x11), (0x0400, 0x22)] with
        x := 0x01
        params := { Params.default with zpPointerWrap := true } } [0x22, 0x01, 0x00, 0xFD, 0x24] 0x0202 [rd 0x0200,
        rd 0x0201, rd 0x00FF, rd 0x0000, rd 0x0400] [] = true := by decide
theorem test_V50 :
    endsAs { code 0x0200 [0xB9, 0xF0, 0x12] [(0x1310, 0x66)] with y := 0x20 }
      [0x66, 0x00, 0x20, 0xFD, 0x24] 0x0203 [rd 0x0200, rd 0x0201, rd 0x0202, rd 0x1310] [] = true := by decide
theorem test_V51 :
    endsAs { code 0x0200 [0x81, 0xFF] [(0x00FF, 0x34), (0x0100, 0x12)] with a := 0x42 }
      [0x42, 0x00, 0x00, 0xFD, 0x24] 0x0202 [rd 0x0200, rd 0x0201, rd 0x00FF, rd 0x0100, wr 0x1234] [(0x1234,
        0x42)] = true := by decide
theorem test_V52 :
    endsAs { code 0x0200 [0x96, 0x10] [] with x := 0x99, y := 0xF5 } [0x00, 0x99, 0xF5, 0xFD, 0x24] 0x0202
      [rd 0x0200, rd 0x0201, wr 0x0005] [(0x0005, 0x99)] = true := by decide
theorem test_V53 :
    endsAs { code 0x0200 [0x8C, 0x00, 0x03] [] with y := 0x77, p := 0xE7 } [0x00, 0x00, 0x77, 0xFD, 0xE7] 0x0203
      [rd 0x0200, rd 0x0201, rd 0x0202, wr 0x0300] [(0x0300, 0x77)] = true := by decide
theorem test_V54 :
    faultsUnmapped { code 0x0200 [0x9D, 0xFF, 0x1F] [] with a := 0x01, x := 0x01 } 0x2000 .write
      [rd 0x0200, rd 0x0201, rd 0x0202] = true := by decide
theorem test_V55 :
    endsAs { code 0x0200 [0xAA] [] with a := 0x00, x := 0x05 } [0x00, 0x00, 0x00, 0xFD, 0x26] 0x0201 [rd 0x0200]
      [] = true := by decide
theorem test_V56 :
    endsAs { code 0x0200 [0xA8] [] with a := 0x90 } [0x90, 0x00, 0x90, 0xFD, 0xA4] 0x0201 [rd 0x0200]
      [] = true := by decide
theorem test_V57 :
    endsAs { code 0x0200 [0x8A] [] with x := 0x80 } [0x80, 0x80, 0x00, 0xFD, 0xA4] 0x0201 [rd 0x0200]
      [] = true := by decide
theorem test_V58 :
    endsAs { code 0x0200 [0x98] [] with a := 0x03, y := 0x00 } [0x00, 0x00, 0x00, 0xFD, 0x26] 0x0201 [rd 0x0200]
      [] = true := by decide
theorem test_V59 :
    endsAs (code 0x0200 [0xBA] []) [0x00, 0xFD, 0x00, 0xFD, 0xA4] 0x0201 [rd 0x0200] [] = true := by decide
theorem test_V60 :
    endsAs { code 0x0200 [0x9A] [] with x := 0x00 } [0x00, 0x00, 0x00, 0x00, 0x24] 0x0201 [rd 0x0200]
      [] = true := by decide
theorem test_V71 :
    endsAs (code 0x0200 [0xE6, 0x10] [(0x0010, 0x7F)]) [0x00, 0x00, 0x00, 0xFD, 0xA4] 0x0202
      [rd 0x0200, rd 0x0201, rd 0x0010, wr 0x0010] [(0x0010, 0x80)] = true := by decide
theorem test_V73 :
    endsAs { code 0x0200 [0xDE, 0x00, 0x03] [(0x0305, 0x01)] with x := 0x05 }
      [0x00, 0x05, 0x00, 0xFD, 0x26] 0x0203 [rd 0x0200, rd 0x0201, rd 0x0202, rd 0x0305, wr 0x0305] [(0x0305,
        0x00)] = true := by decide
theorem test_V74 :
    faultsUnmapped (code 0x0200 [0xEE, 0x00, 0x20] []) 0x2000 .read
      [rd 0x0200, rd 0x0201, rd 0x0202] = true := by decide
theorem test_V75 :
    endsAs { code 0x0200 [0xE8] [] with x := 0xFF, p := 0x25 } [0x00, 0x00, 0x00, 0xFD, 0x27] 0x0201 [rd 0x0200]
      [] = true := by decide
theorem test_V76 :
    endsAs { code 0x0200 [0xC8] [] with y := 0x7F } [0x00, 0x00, 0x80, 0xFD, 0xA4] 0x0201 [rd 0x0200]
      [] = true := by decide
theorem test_V77 :
    endsAs { code 0x0200 [0xCA] [] with x := 0x00 } [0x00, 0xFF, 0x00, 0xFD, 0xA4] 0x0201 [rd 0x0200]
      [] = true := by decide
theorem test_V78 :
    endsAs { code 0x0200 [0x88] [] with y := 0x01 } [0x00, 0x00, 0x00, 0xFD, 0x26] 0x0201 [rd 0x0200]
      [] = true := by decide
theorem test_V79 :
    endsAs { code 0x0200 [0x0A] [] with a := 0x80 } [0x00, 0x00, 0x00, 0xFD, 0x27] 0x0201 [rd 0x0200]
      [] = true := by decide
theorem test_V80 :
    endsAs (code 0x0200 [0x06, 0x10] [(0x0010, 0x41)]) [0x00, 0x00, 0x00, 0xFD, 0xA4] 0x0202
      [rd 0x0200, rd 0x0201, rd 0x0010, wr 0x0010] [(0x0010, 0x82)] = true := by decide
theorem test_V81 :
    endsAs { code 0x0200 [0x4A] [] with a := 0xFF } [0x7F, 0x00, 0x00, 0xFD, 0x25] 0x0201 [rd 0x0200]
      [] = true := by decide
theorem test_V82 :
    endsAs { code 0x0200 [0x46, 0x10] [(0x0010, 0x01)] with p := 0xA4 } [0x00, 0x00, 0x00, 0xFD, 0x27] 0x0202
      [rd 0x0200, rd 0x0201, rd 0x0010, wr 0x0010] [(0x0010, 0x00)] = true := by decide
theorem test_V83 :
    endsAs { code 0x0200 [0x2A] [] with a := 0x80 } [0x00, 0x00, 0x00, 0xFD, 0x27] 0x0201 [rd 0x0200]
      [] = true := by decide
theorem test_V84 :
    endsAs { code 0x0200 [0x26, 0x10] [(0x0010, 0x40)] with p := 0x25 } [0x00, 0x00, 0x00, 0xFD, 0xA4] 0x0202
      [rd 0x0200, rd 0x0201, rd 0x0010, wr 0x0010] [(0x0010, 0x81)] = true := by decide
theorem test_V87 :
    endsAs { code 0x0200 [0x66, 0x10] [(0x0010, 0x02)] with p := 0x25 } [0x00, 0x00, 0x00, 0xFD, 0xA4] 0x0202
      [rd 0x0200, rd 0x0201, rd 0x0010, wr 0x0010] [(0x0010, 0x81)] = true := by decide
theorem test_V88 :
    endsAs { code 0x0200 [0x6A] [] with a := 0x00, p := 0x25 } [0x80, 0x00, 0x00, 0xFD, 0xA4] 0x0201 [rd 0x0200]
      [] = true := by decide
theorem test_V91 :
    endsAs { code 0x0200 [0x48] [] with a := 0x42, sp := 0x00 } [0x42, 0x00, 0x00, 0xFF, 0x24] 0x0201
      [rd 0x0200, wr 0x0100] [(0x0100, 0x42)] = true := by decide
theorem test_V93 :
    endsAs { code 0x0200 [0x08] [] with p := 0xE7 } [0x00, 0x00, 0x00, 0xFC, 0xE7] 0x0201 [rd 0x0200, wr 0x01FD]
      [(0x01FD, 0xF7)] = true := by decide
theorem test_V95 :
    endsAs { code 0x0200 [0x68] [(0x0100, 0x00)] with sp := 0xFF } [0x00, 0x00, 0x00, 0x00, 0x26] 0x0201
      [rd 0x0200, rd 0x0100] [] = true := by decide
theorem test_V96 :
    endsAs (code 0x0200 [0x28] [(0x01FE, 0xFF)]) [0x00, 0x00, 0x00, 0xFE, 0xEF] 0x0201 [rd 0x0200, rd 0x01FE]
      [] = true := by decide
theorem test_V101 :
    endsAs (code 0x0200 [0x6C, 0x20, 0x01] [(0x0120, 0x78), (0x0121, 0x06)]) [0x00, 0x00, 0x00, 0xFD, 0x24] 0x0678
      [rd 0x0200, rd 0x0201, rd 0x0202, rd 0x0120, rd 0x0121] [] = true := by decide
theorem test_V102 :
    endsAs (code 0x0200 [0x6C, 0xFF, 0x01] [(0x0100, 0x02), (0x01FF, 0x00)]) [0x00, 0x00, 0x00, 0xFD, 0x24] 0x0200
      [rd 0x0200, rd 0x0201, rd 0x0202, rd 0x01FF, rd 0x0100] [] = true := by decide
theorem test_V103 :
    endsAs (code 0x0200 [0x20, 0x34, 0x12] []) [0x00, 0x00, 0x00, 0xFB, 0x24] 0x1234
      [rd 0x0200, rd 0x0201, rd 0x0202, wr 0x01FD, wr 0x01FC] [(0x01FD, 0x02), (0x01FC, 0x02)] = true := by decide
theorem test_V105 :
    endsAs { code 0x0200 [0x60] [(0x0100, 0xFF), (0x01FF, 0xFF)] with sp := 0xFE }
      [0x00, 0x00, 0x00, 0x00, 0x24] 0x0000 [rd 0x0200, rd 0x01FF, rd 0x0100] [] = true := by decide
theorem test_V106 :
    endsAs { code 0x0200 [0x40] [(0x01FB, 0xFF), (0x01FC, 0x34), (0x01FD, 0x12)] with sp := 0xFA }
      [0x00, 0x00, 0x00, 0xFD, 0xEF] 0x1234 [rd 0x0200, rd 0x01FB, rd 0x01FC, rd 0x01FD] [] = true := by decide
theorem test_V110 :
    endsAs (code 0x0200 [0x90, 0x05] []) [0x00, 0x00, 0x00, 0xFD, 0x24] 0x0207 [rd 0x0200, rd 0x0201]
      [] = true := by decide
theorem test_V111 :
    endsAs { code 0x0200 [0x90, 0x05] [] with p := 0x25 } [0x00, 0x00, 0x00, 0xFD, 0x25] 0x0202
      [rd 0x0200, rd 0x0201] [] = true := by decide
theorem test_V112 :
    endsAs { code 0x0200 [0xB0, 0x05] [] with p := 0x25 } [0x00, 0x00, 0x00, 0xFD, 0x25] 0x0207
      [rd 0x0200, rd 0x0201] [] = true := by decide
theorem test_V114 :
    endsAs { code 0x0200 [0xF0, 0x80] [] with p := 0x26 } [0x00, 0x00, 0x00, 0xFD, 0x26] 0x0182
      [rd 0x0200, rd 0x0201] [] = true := by decide
theorem test_V116 :
    endsAs (code 0x0200 [0xD0, 0xFE] []) [0x00, 0x00, 0x00, 0xFD, 0x24] 0x0200 [rd 0x0200, rd 0x0201]
      [] = true := by decide
theorem test_V118 :
    endsAs { code 0x0200 [0x30, 0x7F] [] with p := 0xA4 } [0x00, 0x00, 0x00, 0xFD, 0xA4] 0x0281
      [rd 0x0200, rd 0x0201] [] = true := by decide
theorem test_V120 :
    endsAs (code 0x0200 [0x10, 0x05] []) [0x00, 0x00, 0x00, 0xFD, 0x24] 0x0207 [rd 0x0200, rd 0x0201]
      [] = true := by decide
theorem test_V123 :
    endsAs { code 0x0200 [0x50, 0x05] [] with p := 0x64 } [0x00, 0x00, 0x00, 0xFD, 0x64] 0x0202
      [rd 0x0200, rd 0x0201] [] = true := by decide
theorem test_V124 :
    endsAs { code 0x0200 [0x70, 0x05] [] with p := 0x64 } [0x00, 0x00, 0x00, 0xFD, 0x64] 0x0207
      [rd 0x0200, rd 0x0201] [] = true := by decide
theorem test_V131 :
    endsAs { code 0x0200 [0x18] [] with p := 0xEF } [0x00, 0x00, 0x00, 0xFD, 0xEE] 0x0201 [rd 0x0200]
      [] = true := by decide
theorem test_V132 :
    endsAs (code 0x0200 [0x38] []) [0x00, 0x00, 0x00, 0xFD, 0x25] 0x0201 [rd 0x0200] [] = true := by decide
theorem test_V135 :
    endsAs { code 0x0200 [0xD8] [] with p := 0xEF } [0x00, 0x00, 0x00, 0xFD, 0xE7] 0x0201 [rd 0x0200]
      [] = true := by decide
theorem test_V136 :
    endsAs (code 0x0200 [0xF8] []) [0x00, 0x00, 0x00, 0xFD, 0x2C] 0x0201 [rd 0x0200] [] = true := by decide
theorem test_V139 :
    endsAs { code 0x0200 [0x58] [] with p := 0xEF } [0x00, 0x00, 0x00, 0xFD, 0xEB] 0x0201 [rd 0x0200]
      [] = true := by decide
theorem test_V140 :
    endsAs (code 0x0200 [0x78] []) [0x00, 0x00, 0x00, 0xFD, 0x24] 0x0201 [rd 0x0200] [] = true := by decide
theorem test_V143 :
    endsAs { code 0x0200 [0xB8] [] with p := 0xEF } [0x00, 0x00, 0x00, 0xFD, 0xAF] 0x0201 [rd 0x0200]
      [] = true := by decide
theorem test_V145 :
    endsAs { code 0x0200 [0xEA] [] with p := 0xEF } [0x00, 0x00, 0x00, 0xFD, 0xEF] 0x0201 [rd 0x0200]
      [] = true := by decide
theorem test_V152 :
    endsAs { code 0x0200 [0x00]
      [(0xFFFE, 0x00), (0xFFFF, 0x80)] with p := 0x20, params := { Params.default with brkSetsI := true } } [0x00,
        0x00, 0x00, 0xFA, 0x24] 0x8000 [rd 0x0200, wr 0x01FD, wr 0x01FC, wr 0x01FB, rd 0xFFFE, rd 0xFFFF] [(0x01FD,
        0x02), (0x01FC, 0x02), (0x01FB, 0x30)] = true := by decide
theorem test_V154 :
    endsAs { code 0x0200 [0x00] [(0xFFFE, 0x00), (0xFFFF, 0x80)] with sp := 0x01 }
      [0x00, 0x00, 0x00, 0xFE, 0x24] 0x8000 [rd 0x0200, wr 0x0101, wr 0x0100, wr 0x01FF, rd 0xFFFE,
        rd 0xFFFF] [(0x0101, 0x02), (0x0100, 0x02), (0x01FF, 0x34)] = true := by decide
theorem test_V155 :
    faultsUnmapped (code 0x0200 [0x00] []) 0xFFFE .read
      [rd 0x0200, wr 0x01FD, wr 0x01FC, wr 0x01FB] = true := by decide
theorem test_V160 : faultsUnknown (code 0x0200 [0x02] []) 0x02 0x0200 [rd 0x0200] = true := by decide
theorem test_V170 :
    endsAs (code 0xFFFF [] [(0xFFFF, 0xA9), (0x0000, 0x42)]) [0x42, 0x00, 0x00, 0xFD, 0x24] 0x0001
      [rd 0xFFFF, rd 0x0000] [] = true := by decide
theorem test_V171 :
    endsAs (code 0xFFFE [] [(0xFFFE, 0x4C), (0xFFFF, 0x34), (0x0000, 0x12)]) [0x00, 0x00, 0x00, 0xFD, 0x24] 0x1234
      [rd 0xFFFE, rd 0xFFFF, rd 0x0000] [] = true := by decide
theorem test_V173 :
    endsAs { code 0x0010 [0xF0, 0x80] [] with p := 0x26 } [0x00, 0x00, 0x00, 0xFD, 0x26] 0xFF92
      [rd 0x0010, rd 0x0011] [] = true := by decide
theorem test_V175 :
    endsAs { code 0x0200 [0xB1, 0x10] [(0x0010, 0xFF), (0x0011, 0xFF), (0x0001, 0x99)] with y := 0x02 }
      [0x99, 0x00, 0x02, 0xFD, 0xA4] 0x0202 [rd 0x0200, rd 0x0201, rd 0x0010, rd 0x0011,
        rd 0x0001] [] = true := by decide

/-! For each obligation with hypotheses: states and operands that meet them, at the ends of their ranges. -/

/-- The reset state with a device, a ROM and a store mounted above the RAM. -/
def mixed : State :=
  { State.reset with
    mounts := [ramMount, ⟨0x4000, 0x4000, .device⟩, ⟨0x8000, 0xFFFD, .rom⟩, ⟨0xFFFE, 0xFFFF, .storage⟩] }

/-- The reset state with every parameter turned. -/
def turned : State := { State.reset with params := ⟨true, true, true⟩ }

/-- The stack page in a store, BRK in a ROM, no vector. -/
def storeStack : State :=
  { State.reset with
    mounts := [⟨0x0100, 0x01FF, .storage⟩, ⟨0x8000, 0x8002, .rom⟩], pc := 0x8000, mem := [(0x0100, 0x77)] }

/-- JMP ($4000) in a ROM, the pointer's low byte in a device, its high byte nowhere. -/
def devicePointer : State :=
  { State.reset with
    mounts := [⟨0x4000, 0x4000, .device⟩, ⟨0x8000, 0x8002, .rom⟩], pc := 0x8000
    mem := [(0x8000, 0x6C), (0x8002, 0x40)] }

theorem witness_DecodeEncodeRoundTrip :
    Instr.brk.WellFormed ∧ (Instr.jmpInd 0xFFFF).WellFormed ∧ (Instr.staIzy 0xFF).WellFormed := by decide

theorem witness_EncodeDecodeRoundTrip : ∃ i rest, decode [0x4C, 0xFF, 0xFF, 0xEA] = .ok i rest := ⟨_, _, rfl⟩

theorem witness_OpcodeSelectsFormAndLength :
    Instr.aslAcc.mode ∈ [Mode.implied, .accumulator] ∧
      (Instr.bne 0x80).mode ∈ [Mode.immediate, .zeroPage, .zeroPageX, .zeroPageY, .relative, .indexedIndirect,
        .indirectIndexed] ∧
      (Instr.jmpInd 0xFFFF).mode ∈ [Mode.absolute, .absoluteX, .absoluteY, .indirect] ∧
      (Instr.ldaZp 0x00).opcode = (Instr.ldaZp 0xFF).opcode := by decide

theorem witness_StepRunsDecodedInstruction :
    (∃ (s : State) (bs : List Byte) (i : Instr), s.status = .running ∧ decode bs = .ok i [] ∧ i.WellFormed ∧
      s.holds s.pc bs ∧ bs.length = 1) ∧
      (∃ (s : State) (bs : List Byte) (i : Instr), s.status = .running ∧ decode bs = .ok i [] ∧ i.WellFormed ∧
        s.holds s.pc bs ∧ bs.length = 2) ∧
      ∃ (s : State) (bs : List Byte) (i : Instr), s.status = .running ∧ decode bs = .ok i [] ∧ i.WellFormed ∧
        s.holds s.pc bs ∧ bs.length = 3 :=
  ⟨⟨State.reset, [0x00], .brk, rfl, rfl, rfl, ⟨rfl, trivial⟩, rfl⟩,
    ⟨State.reset.withFetchWord 16 0xFFA9, [0xA9, 0xFF], .ldaImm 0xFF, rfl, rfl, rfl, ⟨rfl, rfl, trivial⟩, rfl⟩,
    ⟨State.reset.withFetchWord 24 0x12346C, [0x6C, 0x34, 0x12], .jmpInd 0x1234, rfl, rfl, rfl,
      ⟨rfl, rfl, rfl, trivial⟩, rfl⟩⟩

theorem witness_UnassignedOpcodeFaults :
    ∃ (s s1 : State) (op : Byte), s.status = .running ∧ memRead s.pc s = .next (op, s1) ∧ op ∈ unassignedBytes :=
  ⟨State.reset.withFetchWord 8 0xFF, _, 0xFF, rfl, rfl, by decide⟩

/-- The accesses of i at s, the first one no mount covers among them. -/
abbrev FirstUnmapped (i : Instr) (s : State) (before : List (AccessKind × Addr)) (k : AccessKind) (a : Addr)
    (after : List (AccessKind × Addr)) : Prop :=
  accessesOf i s = before ++ (k, a) :: after ∧ (∀ c ∈ before, (s.mountAt c.2).isSome = true) ∧ s.mountAt a = none

/-- A load, a store, a read-modify-write, both bytes of a pointer, a push, a pull and the vector. -/
theorem witness_FetchFromUnmappedFaults_exec :
    FirstUnmapped (.ldaAbs 0x2000) State.reset [] .read 0x2000 [] ∧
      FirstUnmapped (.staAbsx 0x1FFF) { State.reset with x := 0x01 } [] .write 0x2000 [] ∧
      FirstUnmapped (.incAbs 0xFFFF) State.reset [] .read 0xFFFF [(.write, 0xFFFF)] ∧
      FirstUnmapped (.jmpInd 0x20FF) State.reset [] .read 0x20FF [(.read, 0x2000)] ∧
      FirstUnmapped (.jmpInd 0x4000) devicePointer [(.read, 0x4000)] .read 0x4001 [] ∧
      FirstUnmapped .pha devicePointer [] .write 0x01FD [] ∧ FirstUnmapped .pla devicePointer [] .read 0x01FE [] ∧
      FirstUnmapped .brk State.reset [(.write, 0x01FD), (.write, 0x01FC), (.write, 0x01FB)] .read 0xFFFE
        [(.read, 0xFFFF)] := by decide

theorem witness_FetchFromUnmappedFaults :
    (∃ s : State, s.status = .running ∧ s.mountAt s.pc = none) ∧
      (∃ (s : State) (op : Byte) (s1 : State) (i : Instr), s.status = .running ∧ memRead s.pc s = .next (op, s1) ∧
        op = i.opcode ∧
        1 ≤ i.mode.size ∧ s.mountAt (s.pc + 1) = none) ∧
      ∃ (s : State) (op : Byte) (s1 : State) (b : Byte) (s2 : State) (i : Instr), s.status = .running ∧
        memRead s.pc s = .next (op, s1) ∧ op = i.opcode ∧
        i.mode.size = 2 ∧ memRead (s.pc + 1) s1 = .next (b, s2) ∧ s.mountAt (s.pc + 2) = none :=
  ⟨⟨{ State.reset with pc := 0x2000 }, rfl, rfl⟩,
    ⟨{ State.reset with pc := 0x1FFF, mem := [(0x1FFF, 0xA9)] }, 0xA9, _, .ldaImm 0x00, rfl, rfl, rfl, by decide,
      rfl⟩,
    ⟨{ State.reset with pc := 0x1FFE, mem := [(0x1FFE, 0xAD)] }, 0xAD, _, _, _, .ldaAbs 0x0000, rfl, rfl, rfl, rfl,
      rfl,
      rfl⟩⟩

theorem witness_ErrorIsTerminalAndExact :
    (∃ (s : State) (e : Fault), s.status = .faulted e) ∧
      (∃ e, Invariant storeStack ∧ storeStack.status = .running ∧ step storeStack = .fault e ∧
        storeStack.kindAt 0x01FB = some .storage ∧ storeStack.kindAt 0x8000 = some .rom) ∧
      ∃ e, Invariant devicePointer ∧ devicePointer.status = .running ∧ step devicePointer = .fault e ∧
        e.seen.any (fun c => c.kind == .read && devicePointer.kindAt c.addr == some .device) = true :=
  ⟨⟨{ State.reset with status := .faulted (.unmappedAddress 0xFFFE .read []) }, _, rfl⟩,
    ⟨_, ⟨rfl, by decide, by decide, by decide, rfl, by decide⟩, rfl, rfl, rfl, rfl⟩,
    ⟨_, ⟨rfl, by decide, by decide, by decide, rfl, by decide⟩, rfl, rfl, rfl⟩⟩

/-- What BRK does at storeStack before it faults, newest first. -/
def pushesMade : List BusEvent :=
  [⟨.write, 0x01FB, 0x34⟩, ⟨.write, 0x01FC, 0x02⟩, ⟨.write, 0x01FD, 0x80⟩, ⟨.read, 0x8000, 0x00⟩]

/-- 60_exceptions R406: the accesses made before the error have happened. BRK with the stack in a store has pushed 0x80 at
0x01FD, 0x02 at 0x01FC and P | 0x10 at 0x01FB before it faults at the vector; a JMP pointer half in a device has drawn
one byte. -/
theorem test_afterFault :
    (successor storeStack).peek 0x01FD = some 0x80 ∧ (successor storeStack).peek 0x01FC = some 0x02 ∧
      (successor storeStack).peek 0x01FB = some 0x34 ∧ (successor storeStack).peek 0x0100 = some 0x77 ∧
      (successor devicePointer).draws = 1 := by
  obtain ⟨e1, h1, he1⟩ : ∃ e, step storeStack = .fault e ∧ e.seen = pushesMade ++ storeStack.log :=
    ⟨_, rfl, by decide⟩
  obtain ⟨e2, h2, he2⟩ : ∃ e, step devicePointer = .fault e ∧
      e.seen.countP (fun c => c.kind == .read && devicePointer.kindAt c.addr == some .device) = 1 := ⟨_, rfl, rfl⟩
  have h := (State.afterFault_spec (s := storeStack) (e := e1) he1).2.2.2.2 (by decide)
  have hd := (State.afterFault_spec (s := devicePointer) (e := e2) (List.append_nil _).symm).1
  have hs1 : storeStack.status = .running := rfl
  have hs2 : devicePointer.status = .running := rfl
  simp only [successor, hs1, hs2, h1, h2]
  exact ⟨(h 0x01FD).2 (by decide), (h 0x01FC).2 (by decide), (h 0x01FB).2 (by decide),
    ((h 0x0100).2 (by decide)).trans (by decide), hd.trans (by rw [he2]; rfl)⟩

theorem witness_StepRaisesOnlyTwoErrors :
    (∃ (s : State) (a : Addr) (k : AccessKind) (seen : List BusEvent), s.status = .running ∧
      step s = .fault (.unmappedAddress a k seen)) ∧
      ∃ (s : State) (op : Byte) (a : Addr) (seen : List BusEvent), s.status = .running ∧
        step s = .fault (.unknownOpcode op a seen) :=
  ⟨⟨State.reset, _, _, _, rfl, rfl⟩, ⟨State.reset.withFetchWord 8 0x02, _, _, _, rfl, rfl⟩⟩

/-- The clauses of BusReadRoutesToMount and of BusWriteRoutesToMount: RAM's last byte, a one-byte device, a ROM's first
byte, a store's last byte, and the addresses beside them that no mount covers. -/
theorem witness_BusRoutesToMount :
    mixed.mounts.Pairwise (fun m n => m.overlaps n = false) ∧
      (∃ m ∈ mixed.mounts, m.kind = .ram ∧ m.start ≤ (0x1FFF : Addr).toNat ∧ (0x1FFF : Addr).toNat ≤ m.stop) ∧
      (∃ m ∈ mixed.mounts, m.kind = .device ∧ m.start ≤ (0x4000 : Addr).toNat ∧ (0x4000 : Addr).toNat ≤ m.stop) ∧
      (∃ m ∈ mixed.mounts, m.kind = .rom ∧ m.start ≤ (0x8000 : Addr).toNat ∧ (0x8000 : Addr).toNat ≤ m.stop) ∧
      (∃ m ∈ mixed.mounts, m.kind = .storage ∧ m.start ≤ (0xFFFF : Addr).toNat ∧ (0xFFFF : Addr).toNat ≤ m.stop) ∧
      (∀ m ∈ mixed.mounts, ¬(m.start ≤ (0x2000 : Addr).toNat ∧ (0x2000 : Addr).toNat ≤ m.stop)) ∧
      ∀ m ∈ mixed.mounts, ¬(m.start ≤ (0x7FFF : Addr).toNat ∧ (0x7FFF : Addr).toNat ≤ m.stop) := by decide

theorem witness_WrittenByteReadsBack :
    (State.reset.mountAt 0x1FFF = some ramMount ∧ turned.mountAt 0x1FFF = some ramMount) ∧
      (∃ t, memWrite 0x1FFF 0x12 turned = .next t ∧ turned.storeAt 0x1FFF = true ∧
        turned.cellAt 0x07FF = turned.cellAt 0x1FFF ∧ turned.cellAt 0x0800 ≠ turned.cellAt 0x1FFF) ∧
      (∃ t, memWrite 0x0000 0x12 State.reset = .next t ∧ State.reset.storeAt 0x0000 = true ∧
        State.reset.cellAt 0x0800 ≠ State.reset.cellAt 0x0000) ∧ (0x1FFF : Addr).toNat ≤ 0x1FFF :=
  ⟨by decide, ⟨_, rfl, by decide⟩, ⟨_, rfl, by decide⟩, by decide⟩

theorem witness_ReadWordIsLittleEndian :
    (∃ s s1 s2 lo hi, memRead 0xFFFF s = .next (lo, s1) ∧ memRead (0xFFFF + 1) s1 = .next (hi, s2)) ∧
      ∃ s e, memRead 0x2000 s = .fault e :=
  ⟨⟨mixed, _, _, _, _, rfl, rfl⟩, ⟨State.reset, _, rfl⟩⟩

theorem witness_MountKeepsMountsApart :
    ((∀ n ∈ mixed.mounts, n.wellFormed = true) ∧ mixed.mounts.Pairwise (fun p q => p.overlaps q = false)) ∧
      (∀ n ∈ State.reset.mounts, ¬∃ a, n.start ≤ a ∧ a ≤ n.stop ∧ 0x2000 ≤ a ∧ a ≤ 0xFFFF) ∧
      (∃ m : Mount, m.stop < m.start) ∧ (∃ m : Mount, 0xFFFF < m.stop) ∧
      ∃ n ∈ State.reset.mounts, ∃ a, n.start ≤ a ∧ a ≤ n.stop ∧ 0x1FFF ≤ a ∧ a ≤ 0x2000 :=
  ⟨by decide, by simp only [State.reset, ramMount, Config.ramStop]; simp; omega, ⟨⟨1, 0, .ram⟩, by decide⟩,
    ⟨⟨0, 0x10000, .ram⟩, by decide⟩, ⟨ramMount, by decide, 0x1FFF, by decide⟩⟩

/-- Both clauses, with the pointer's low byte at 0xFF, for both values of the parameter: the high byte at 0x0100 or at
0x0000. -/
theorem witness_ZeroPagePointersResolve :
    (∃ s1 s2 lo hi, memRead 0x00FF State.reset = .next (lo, s1) ∧ memRead 0x0100 s1 = .next (hi, s2)) ∧
      ∃ s1 s2 lo hi, memRead 0x00FF turned = .next (lo, s1) ∧ memRead 0x0000 s1 = .next (hi, s2) :=
  ⟨⟨_, _, _, _, rfl, rfl⟩, ⟨_, _, _, _, rfl, rfl⟩⟩

/-- The hypothesis of the statements over a read operand, for a mnemonic: in register-free,
  memory and pointer modes. -/
def ReadsOperand (m : Mnemonic) : Prop :=
  ∃ i : Instr, i.mnemonic = m ∧ ∃ s s1 v, readOperand i.operand s = .next (v, s1)

theorem witness_LoadsCompleteWithResult : ReadsOperand .lda ∧ ReadsOperand .ldx ∧ ReadsOperand .ldy :=
  ⟨⟨.ldaIzy 0xFF, rfl, State.reset, _, _, rfl⟩, ⟨.ldxImm 0x80, rfl, State.reset, _, _, rfl⟩,
    ⟨.ldyAbsx 0x1FFF, rfl, State.reset, _, _, rfl⟩⟩

theorem witness_ComparesCompleteWithFlags : ReadsOperand .cmp ∧ ReadsOperand .cpx ∧ ReadsOperand .cpy :=
  ⟨⟨.cmpIzx 0xFF, rfl, State.reset, _, _, rfl⟩, ⟨.cpxImm 0x80, rfl, State.reset, _, _, rfl⟩,
    ⟨.cpyAbs 0x1FFF, rfl, State.reset, _, _, rfl⟩⟩

theorem witness_AdcCompletesWithResult : ReadsOperand .adc := ⟨.adcImm 0xFF, rfl, State.reset, _, _, rfl⟩

theorem witness_SbcCompletesWithResult : ReadsOperand .sbc := ⟨.sbcZpx 0xFF, rfl, State.reset, _, _, rfl⟩

theorem witness_LogicCompletesWithResult : ReadsOperand .and ∧ ReadsOperand .ora ∧ ReadsOperand .eor :=
  ⟨⟨.andAbs 0x1FFF, rfl, State.reset, _, _, rfl⟩, ⟨.oraImm 0xFF, rfl, State.reset, _, _, rfl⟩,
    ⟨.eorIzy 0x00, rfl, State.reset, _, _, rfl⟩⟩

theorem witness_BitCompletesWithFlags : ReadsOperand .bit := ⟨.bitAbs 0x1FFF, rfl, State.reset, _, _, rfl⟩

/-- The hypotheses of the statements over a store, for a mnemonic and the byte stored. -/
def Stores (m : Mnemonic) (byte : State → Byte) : Prop :=
  ∃ i : Instr, i.mnemonic = m ∧ ∃ s s1 t ea, resolve i.operand s = .next (.memory ea, s1) ∧
    memWrite ea (byte s) s1 = .next t

theorem witness_StoresCompleteWithResult : Stores .sta State.a ∧ Stores .stx State.x ∧ Stores .sty State.y :=
  ⟨⟨.staAbs 0x1FFF, rfl, State.reset, _, _, _, rfl, rfl⟩, ⟨.stxZpy 0xFF, rfl, State.reset, _, _, _, rfl, rfl⟩,
    ⟨.styZp 0x00, rfl, State.reset, _, _, _, rfl, rfl⟩⟩

/-- The hypotheses of the statements over a read-modify-write, for a mnemonic and the byte written. -/
def Modifies (m : Mnemonic) (byte : State → Byte → Byte) : Prop :=
  ∃ i : Instr, i.mnemonic = m ∧ ∃ s s1 s2 t ea x, resolve i.operand s = .next (.memory ea, s1) ∧
    memRead ea s1 = .next (x, s2) ∧ memWrite ea (byte s x) s2 = .next t

theorem witness_IncDecMemoryComplete :
    Modifies .inc (fun _ x => BitVec.ofNat 8 (x.toNat + 1)) ∧
      Modifies .dec (fun _ x => BitVec.ofNat 8 (x.toNat + 255)) :=
  ⟨⟨.incAbs 0x1FFF, rfl, State.reset, _, _, _, _, _, rfl, rfl, rfl⟩,
    ⟨.decZp 0xFF, rfl, State.reset, _, _, _, _, _, rfl, rfl, rfl⟩⟩

theorem witness_MemoryShiftsComplete :
    Modifies .asl (fun _ x => BitVec.ofNat 8 (2 * x.toNat)) ∧
      Modifies .lsr (fun _ x => BitVec.ofNat 8 (x.toNat / 2)) ∧
      Modifies .rol (fun s x => BitVec.ofNat 8 (2 * x.toNat + (if s.flags.c then 1 else 0))) ∧
      Modifies .ror (fun s x => BitVec.ofNat 8 (x.toNat / 2 + (if s.flags.c then 128 else 0))) :=
  ⟨⟨.aslAbs 0x1FFF, rfl, State.reset, _, _, _, _, _, rfl, rfl, rfl⟩,
    ⟨.lsrZp 0xFF, rfl, State.reset, _, _, _, _, _, rfl, rfl, rfl⟩,
    ⟨.rolZpx 0x00, rfl, State.reset, _, _, _, _, _, rfl, rfl, rfl⟩,
    ⟨.rorAbsx 0x0000, rfl, State.reset, _, _, _, _, _, rfl, rfl, rfl⟩⟩

theorem witness_AccumulatorShiftsComplete : ∃ (s : State) (x : Byte), x = s.a := ⟨State.reset, _, rfl⟩

/-- SP at 0x00, where the next push wraps. -/
theorem witness_PushesCompleteWithResult :
    ∃ s t u : State, s.sp = 0x00 ∧ memWrite (0x0100 + s.sp.zeroExtend 16) s.a s = .next t ∧
      memWrite (0x0100 + s.sp.zeroExtend 16) (s.p ||| 0x10) s = .next u :=
  ⟨{ State.reset with sp := 0x00 }, _, _, rfl, rfl, rfl⟩

/-- SP at 0xFF, where the next pull wraps. -/
theorem witness_PullsCompleteWithResult :
    ∃ (s s1 : State) (v : Byte), s.sp = 0xFF ∧
      memRead (0x0100 + (s.sp + 1).zeroExtend 16) { s with sp := s.sp + 1 } = .next (v, s1) :=
  ⟨{ State.reset with sp := 0xFF }, _, _, rfl, rfl⟩

theorem witness_JumpsComplete :
    ∃ s s1 s2 : State, s.sp = 0x00 ∧ memWrite (0x0100 + s.sp.zeroExtend 16) ((s.pc + 1).extractLsb' 8 8) s = .next s1 ∧
      memWrite (0x0100 + (s.sp - 1).zeroExtend 16) ((s.pc + 1).extractLsb' 0 8) { s1 with sp := s.sp - 1 } = .next s2 :=
  ⟨{ State.reset with sp := 0x00 }, _, _, rfl, rfl, rfl⟩

/-- A pointer inside its page and one at its last byte. -/
theorem witness_IndirectJumpWrapsInPage :
    (∃ s s1 s2 lo hi, memRead 0x01FE s = .next (lo, s1) ∧
      memRead (if (0x01FE : Addr).toNat % 256 = 255 then 0x01FE - 0xFF else 0x01FE + 1) s1 = .next (hi, s2)) ∧
      ∃ s s1 s2 lo hi, memRead 0x1FFF s = .next (lo, s1) ∧
        memRead (if (0x1FFF : Addr).toNat % 256 = 255 then 0x1FFF - 0xFF else 0x1FFF + 1) s1 = .next (hi, s2) :=
  ⟨⟨State.reset, _, _, _, _, rfl, rfl⟩, ⟨State.reset, _, _, _, _, rfl, rfl⟩⟩

theorem witness_RtsCompletesWithResult :
    ∃ (s s1 s2 : State) (lo hi : Byte), s.sp = 0xFE ∧
      memRead (0x0100 + (s.sp + 1).zeroExtend 16) { s with sp := s.sp + 1 } = .next (lo, s1) ∧
      memRead (0x0100 + (s.sp + 2).zeroExtend 16) { s1 with sp := s.sp + 2 } = .next (hi, s2) :=
  ⟨{ State.reset with sp := 0xFE }, _, _, _, _, rfl, rfl, rfl⟩

theorem witness_RtiCompletesWithResult :
    ∃ (s s1 s2 s3 : State) (v lo hi : Byte), s.sp = 0xFE ∧
      memRead (0x0100 + (s.sp + 1).zeroExtend 16) { s with sp := s.sp + 1 } = .next (v, s1) ∧
      memRead (0x0100 + (s.sp + 2).zeroExtend 16)
        { s1 with sp := s.sp + 2, flags := Flags.ofByte v } = .next (lo, s2) ∧
      memRead (0x0100 + (s.sp + 3).zeroExtend 16) { s2 with sp := s.sp + 3 } = .next (hi, s3) :=
  ⟨{ State.reset with sp := 0xFE }, _, _, _, _, _, _, rfl, rfl, rfl, rfl⟩

/-- The three pushes with the vector mounted, and with nothing at the vector. -/
theorem witness_BrkTakesTheTrap :
    (∃ s s1 s2 s3 : State,
      memWrite (0x0100 + s.sp.zeroExtend 16) ((s.pc + 1).extractLsb' 8 8) s = .next s1 ∧
      memWrite (0x0100 + (s.sp - 1).zeroExtend 16) ((s.pc + 1).extractLsb' 0 8) { s1 with sp := s.sp - 1 } = .next s2 ∧
      memWrite (0x0100 + (s.sp - 2).zeroExtend 16) (s.p ||| 0x10) { s2 with sp := s.sp - 2 } = .next s3 ∧
      ∃ s4 s5 lo hi,
        memRead 0xFFFE { s3 with
          sp := s.sp - 3
          flags := { s.flags with i := if s.params.brkSetsI then true else s.flags.i } } = .next (lo, s4) ∧
        memRead 0xFFFF s4 = .next (hi, s5)) ∧
      ∃ s s1 s2 s3 : State,
        memWrite (0x0100 + s.sp.zeroExtend 16) ((s.pc + 1).extractLsb' 8 8) s = .next s1 ∧
        memWrite (0x0100 + (s.sp - 1).zeroExtend 16) ((s.pc + 1).extractLsb' 0 8) { s1 with sp := s.sp - 1 } =
          .next s2 ∧
        memWrite (0x0100 + (s.sp - 2).zeroExtend 16) (s.p ||| 0x10) { s2 with sp := s.sp - 2 } = .next s3 ∧
        s.mountAt 0xFFFE = none :=
  ⟨⟨mixed, _, _, _, rfl, rfl, rfl, _, _, _, _, rfl, rfl⟩, ⟨State.reset, _, _, _, rfl, rfl, rfl, rfl⟩⟩

theorem stackInRam_reset : State.reset.stackInRam := by unfold State.stackInRam; decide

theorem stackInRam_mixed : mixed.stackInRam := by unfold State.stackInRam; decide

theorem witness_BrkThenRtiReturns : ∃ s t : State, s.stackInRam ∧ exec .brk s = .next t := ⟨mixed, _,
  stackInRam_mixed, rfl⟩

theorem witness_JsrThenRtsReturns : ∃ s t : State, s.stackInRam ∧ exec (.jsr 0xFFFF) s = .next t :=
  ⟨State.reset, _, stackInRam_reset, rfl⟩

theorem witness_PushThenPullRestores : ∃ s t u : State, s.stackInRam ∧ exec .pha s = .next t ∧
  exec .php s = .next u :=
  ⟨State.reset, _, _, stackInRam_reset, rfl, rfl⟩

/-- A state that meets the invariant and whose step completes. -/
theorem witness_StepKeepsInvariant : ∃ s t, Invariant s ∧ step s = .next t :=
  ⟨mixed, _, ⟨rfl, by decide, by decide, by decide, rfl, by decide⟩, rfl⟩

/-- The mounts of twiceLoaded after construction. -/
def launched : State := { State.reset with mounts := [ramMount, ⟨0xFFFE, 0xFFFF, .storage⟩] }

/-- A launch that loads the byte at 0xFFFE twice. -/
def twiceLoaded : Launch :=
  { Launch.default with
    mounts := [⟨0xFFFE, 0xFFFF, .storage⟩], bytes := [(0xFFFE, 0xEA), (0xFFFE, 0x4C), (0xFFFF, 0x12)] }

theorem witness_ConstructionBuildsLaunchState :
    (∃ (l : Launch) (t : State), construct l = .next t ∧ l.mounts ≠ [] ∧
      (∃ before after a v, l.bytes = before ++ (a, v) :: after ∧ before ≠ [] ∧ t.cellAt a ≠ none ∧
        ∀ c ∈ after, t.cellAt c.1 ≠ t.cellAt a) ∧
      (0x1FFF : Addr).toNat ≤ 0x1FFF ∧ ∀ c ∈ l.bytes, t.cellAt c.1 ≠ t.cellAt 0x1FFF) ∧
      ∃ e, construct { Launch.default with mounts := [⟨0x1FFF, 0x2000, .rom⟩] } = .fault e :=
  by
  obtain ⟨t, ht, hm, hp⟩ : ∃ t, construct twiceLoaded = .next t ∧ t.mounts = launched.mounts ∧
      t.params = launched.params := ⟨_, rfl, rfl, rfl⟩
  have hc := State.cellAt_congr hm hp
  have h1 : launched.cellAt 0x1FFF#16 = some 0x1FFF := rfl
  have h2 : launched.cellAt 0xFFFE#16 = some 0xFFFE := rfl
  have h3 : launched.cellAt 0xFFFF#16 = some 0xFFFF := rfl
  refine ⟨⟨twiceLoaded, t, ht, by decide, ⟨[(0xFFFE, 0xEA)], [(0xFFFF, 0x12)], 0xFFFE, 0x4C, rfl, by decide, ?_, ?_⟩,
    by decide, ?_⟩, ⟨_, rfl⟩⟩ <;> simp [hc, h1, h2, h3, twiceLoaded]

theorem witness_NonStoringInstructionsKeepMemory :
    ∃ (i j : Instr) (s t u : State),
      (i.mnemonic ∉ [Mnemonic.sta, .stx, .sty, .inc, .dec, .pha, .php, .jsr, .brk] ∧
        (i.mnemonic ∈ [Mnemonic.asl, .lsr, .rol, .ror] → i.mode = .accumulator) ∧ exec i s = .next t) ∧
      j.mnemonic ∈ [Mnemonic.asl, .lsr, .rol, .ror] ∧ j.mode = .accumulator ∧ exec j s = .next u :=
  ⟨.ldaAbs 0x1FFF, .rorAcc, State.reset, _, _, ⟨by decide, by decide, rfl⟩, by decide, rfl, rfl⟩

theorem witness_StoringInstructionsTouchOnlyTheirAddress :
    ∃ (i : Instr) (s s1 t : State) (ea b : Addr),
      i.mnemonic ∈ [Mnemonic.sta, .stx, .sty, .inc, .dec, .asl, .lsr, .rol, .ror] ∧
      resolve i.operand s = .next (.memory ea, s1) ∧ exec i s = .next t ∧ s.cellAt b ≠ s.cellAt ea ∧
      s.params.ramMirror = false ∧ b ≠ ea :=
  ⟨.incAbs 0x1FFF, State.reset, _, _, _, 0x0000, by decide, rfl, rfl, by decide, rfl, by decide⟩

/-- Each of the four, with SP at 0x00 and an address outside its slots. -/
theorem witness_StackInstructionsTouchOnlyTheirSlots :
    ∃ s t1 t2 t3 t4 : State, s.sp = 0x00 ∧ exec .pha s = .next t1 ∧ exec .php s = .next t2 ∧
      exec (.jsr 0x1234) s = .next t3 ∧ exec .brk s = .next t4 ∧
      ∀ k < 3, s.cellAt 0x0101 ≠ s.cellAt (0x0100 + (s.sp - BitVec.ofNat 8 k).zeroExtend 16) :=
  ⟨{ mixed with sp := 0x00 }, _, _, _, _, rfl, rfl, rfl, rfl, rfl, by decide⟩

/-- The hypothesis of RegistersChangeOnlyByTheirWriters, FlagsChangeOnlyByTheirWriters, SetupNeverChanges and
AccessesAreExactlyTheRules, with each register and each flag changed by some instruction. -/
theorem witness_Changes :
    (∃ s t : State, exec .txa s = .next t ∧ t.a ≠ s.a) ∧ (∃ s t : State, exec .dex s = .next t ∧ t.x ≠ s.x) ∧
      (∃ s t : State, exec .dey s = .next t ∧ t.y ≠ s.y) ∧ (∃ s t : State, exec .pla s = .next t ∧ t.sp ≠ s.sp) ∧
      (∃ s t : State, exec .sec s = .next t ∧ t.flags.c ≠ s.flags.c) ∧
      (∃ s t : State, exec (.ldaImm 0x00) s = .next t ∧ t.flags.z ≠ s.flags.z) ∧
      (∃ s t : State, exec (.ldaImm 0x80) s = .next t ∧ t.flags.n ≠ s.flags.n) ∧
      (∃ s t : State, exec .cli s = .next t ∧ t.flags.i ≠ s.flags.i) ∧ (∃ s t : State, exec .sed s = .next t ∧
        t.flags.d ≠ s.flags.d) ∧
      ∃ s t : State, exec (.adcImm 0x7F) s = .next t ∧ t.flags.v ≠ s.flags.v :=
  ⟨⟨{ State.reset with x := 0x01 }, _, rfl, by decide⟩, ⟨State.reset, _, rfl, by decide⟩,
    ⟨State.reset, _, rfl, by decide⟩, ⟨State.reset, _, rfl, by decide⟩, ⟨State.reset, _, rfl, by decide⟩,
    ⟨State.reset, _, rfl, by decide⟩, ⟨State.reset, _, rfl, by decide⟩, ⟨State.reset, _, rfl, by decide⟩,
    ⟨State.reset, _, rfl, by decide⟩, ⟨{ State.reset with a := 0x01 }, _, rfl, by decide⟩⟩

/-- Every access of a BRK, a read-modify-write and a zero-page pointer load mapped. -/
theorem witness_AccessesAreExactlyTheRules :
    (∃ t, exec .brk mixed = .next t) ∧ (∀ c ∈ accessesOf .brk mixed, (mixed.mountAt c.2).isSome = true) ∧
      (accessesOf .brk mixed).length = 5 ∧
      accessesOf (.incAbsx 0xFFFF) turned = [(.read, 0xFFFF), (.write, 0xFFFF)] ∧
      accessesOf (.ldaIzx 0xFF) turned = [(.read, 0x00FF), (.read, 0x0000), (.read, 0x0000)] ∧
      accessesOf (.ldaIzx 0xFF) State.reset = [(.read, 0x00FF), (.read, 0x0100), (.read, 0x0000)] ∧
      accessesOf (.ldaImm 0xFF) State.reset = [] ∧ accessesOf .rorAcc State.reset = [] :=
  ⟨⟨_, rfl⟩, by decide⟩

theorem witness_DecimalAndInterruptFlagsGateNothing :
    ∃ i : Instr, i.mnemonic ≠ .php ∧ i.mnemonic ≠ .brk := ⟨.adcImm 0x01, by decide⟩

/-- Runs of both kinds that complete, and runs of both kinds that fail. -/
theorem witness_RunsEndAsLaunched :
    (Invariant mixed ∧ (∃ t, runUntil (.stepBudget 1) 0 mixed = .completed t) ∧
      ∃ t, runUntil (.stopAt 0x0000) 1 mixed = .completed t) ∧
      (Invariant State.reset ∧ (∃ e, runUntil (.stepBudget 1) 0 State.reset = .failed e) ∧
        ∃ e, runUntil (.stopAt 0x1234) 1 State.reset = .failed e) ∧
      (∃ t, Host.Core.run Sys2Proof.core 1 { mixed with pc := 0x0001 } = .next t ∧ t.pc = 0x0000 ∧
        ∀ j < 1, ∀ u : State, Host.Core.run Sys2Proof.core j { mixed with pc := 0x0001 } = .next u → u.pc ≠ 0x0000) ∧
      ∃ e, Host.Core.run Sys2Proof.core 1 State.reset = .fault e ∧
        ∀ j < 1, ∀ u : State, Host.Core.run Sys2Proof.core j State.reset = .next u → u.pc ≠ 0x1234 := by
  refine ⟨⟨⟨rfl, by decide, by decide, by decide, rfl, by decide⟩, ⟨_, rfl⟩, ⟨_, rfl⟩⟩,
    ⟨⟨rfl, by decide, by decide, by decide, rfl, by decide⟩, ⟨_, rfl⟩, ⟨_, rfl⟩⟩, ⟨_, rfl, rfl, ?_⟩, ⟨_, rfl, ?_⟩⟩
  all_goals
    intro j hj u hu
    obtain rfl : j = 0 := by omega
    cases hu
    decide

end Sys2Proof.Tests
end

/-! PROOFS. The statements of 10_state: what reset and P hold, which instructions write each register and flag, and that
D and I gate nothing. -/

namespace Sys2Proof.Machine

/-! ### The status register and the reset state -/

/-- Bits 5 and 4 of P as it reads are 1 and 0 (10_state R41, R42, R45). -/
theorem Flags.toByte_hardwired (f : Flags) : f.toByte &&& 0x30 = 0x20 := by
  obtain ⟨n, v, d, i, z, c⟩ := f
  revert n v d i z c
  decide

/-- P read after a load drops bits 4 and 5 of the byte (10_state R46). -/
theorem Flags.toByte_ofByte (v : Byte) : (Flags.ofByte v).toByte = (v &&& 0xEF) ||| 0x20 := by
  revert v; decide

/-- Loading what P reads gives the same flags back. -/
@[simp] theorem Flags.ofByte_toByte (f : Flags) : Flags.ofByte f.toByte = f := by
  obtain ⟨n, v, d, i, z, c⟩ := f
  revert n v d i z c
  decide

/-- Settles O59: the three facts about the stored flags and the byte P reads as. -/
theorem statusRegisterHardwiredBits : Obligations.StatusRegisterHardwiredBits :=
  ⟨fun s => s.flags.toByte_hardwired, fun _ v => Flags.toByte_ofByte v, fun s => by
    rw [State.setP, State.p, Flags.ofByte_toByte]; rfl⟩

/-- At reset the default RAM is the only mount (20_memory R73). -/
theorem mountAt_reset (a : Addr) :
    State.reset.mountAt a = if a.toNat ≤ 0x1FFF then some ramMount else none := by
  by_cases h : a.toNat ≤ 0x1FFF <;>
    simp [State.mountAt, State.reset, Mount.covers, ramMount, Config.ramStart, Config.ramStop, h]

theorem peek_reset (a : Addr) : State.reset.peek a = if a.toNat ≤ 0x1FFF then some 0x00 else none := by
  by_cases h : a.toNat ≤ 0x1FFF <;> simp only [State.peek, State.cellAt, mountAt_reset, h, if_true, if_false] <;> rfl

/-- Settles O58: the registers by evaluation, RAM by the one mount and the empty byte list. -/
theorem resetValues : Obligations.ResetValues :=
  ⟨rfl, rfl, rfl, rfl, rfl, rfl, rfl, rfl, peek_reset⟩

/-- Settles O48: no byte is listed, and the one mount is the default RAM. -/
theorem resetMeetsInvariant : Obligations.ResetMeetsInvariant where
  memCanonical := rfl
  memBacked := by simp [State.reset]
  mountsWellFormed := by decide
  mountsDisjoint := List.pairwise_singleton _ _
  running := rfl
  drawsCounted := Nat.le_refl 0

/-! ### What bus accesses and the stack leave of the registers -/

/-- t comes from s by bus accesses: stores and the records of the accesses, no register. -/
def BusOnly (s t : State) : Prop := t = { s with mem := t.mem, log := t.log, draws := t.draws }

/-- t comes from s by bus accesses and moves of SP. -/
def StackOnly (s t : State) : Prop := t = { s with sp := t.sp, mem := t.mem, log := t.log, draws := t.draws }

section fields
variable {s t : State}
theorem StackOnly.a (h : StackOnly s t) : t.a = s.a := by rw [h]
theorem StackOnly.x (h : StackOnly s t) : t.x = s.x := by rw [h]
theorem StackOnly.y (h : StackOnly s t) : t.y = s.y := by rw [h]
theorem StackOnly.flags (h : StackOnly s t) : t.flags = s.flags := by rw [h]
theorem BusOnly.stackOnly (h : BusOnly s t) : StackOnly s t := by rw [h]; rfl
theorem BusOnly.sp (h : BusOnly s t) : t.sp = s.sp := by rw [h]
theorem ReadsOnly.busOnly (h : ReadsOnly s t) : BusOnly s t := by rw [h.rest]; rfl
end fields

theorem BusOnly.trans {s t u : State} (h : BusOnly s t) (k : BusOnly t u) : BusOnly s u := by rw [k, h]; rfl

theorem StackOnly.trans {s t u : State} (h : StackOnly s t) (k : StackOnly t u) : StackOnly s u := by rw [k, h]; rfl

theorem memWrite_busOnly {s t : State} {a : Addr} {v : Byte} (h : memWrite a v s = .next t) : BusOnly s t := by
  rw [(memWrite_next h).1]; rfl

theorem writePlace_busOnly {p : Place} {s t : State} {v : Byte} (hp : p ≠ .accumulator)
    (h : writePlace p v s = .next t) : BusOnly s t := by
  rcases writePlace_next h with ⟨ha, _⟩ | ⟨_, _, hw⟩
  · exact absurd ha hp
  · exact memWrite_busOnly hw

theorem push_stackOnly {s t : State} {v : Byte} (h : push v s = .next t) : StackOnly s t := by
  obtain ⟨s1, h1, rfl⟩ := push_next h
  exact (memWrite_busOnly h1).stackOnly.trans rfl

theorem pull_stackOnly {s t : State} {v : Byte} (h : pull s = .next (v, t)) : StackOnly s t :=
  StackOnly.trans (t := s.setSp (s.sp + 1)) rfl (pull_next h).2.busOnly.stackOnly

theorem pushWord_stackOnly {s t : State} {w : Addr} (h : pushWord w s = .next t) : StackOnly s t := by
  obtain ⟨s1, h1, h2⟩ := pushWord_next h
  exact (push_stackOnly h1).trans (push_stackOnly h2)

theorem pullWord_stackOnly {s t : State} {w : Addr} (h : pullWord s = .next (w, t)) : StackOnly s t := by
  obtain ⟨_, _, s1, h1, h2, _⟩ := pullWord_next h
  exact (pull_stackOnly h1).trans (pull_stackOnly h2)

/-! ### What each family's answer is, over the state its bus accesses leave -/

/-- Only an accumulator operand resolves to the accumulator. -/
theorem resolve_accumulator {op : Operand} {s t : State} (h : resolve op s = .next (.accumulator, t)) :
    op.mode = .accumulator := by
  cases op <;> simp only [resolve] at h
  case accumulator => rfl
  case indirect | indexedIndirect | indirectIndexed =>
    obtain ⟨_, _, _, h⟩ := bindValue_eq_next.1 h
    simp at h
  all_goals simp at h

/-- An instruction that reads its operand and then only writes registers. -/
theorem readThen_next {op : Operand} {s t : State} {g : Byte → State → State}
    (h : bindValue (readOperand op s) (fun m s1 => .next (g m s1)) = (.next t : StepResult)) :
    ∃ m u, ReadsOnly s u ∧ t = g m u := by
  obtain ⟨m, u, hr, h⟩ := bindValue_eq_next.1 h
  exact ⟨m, u, readOperand_readsOnly hr, by simpa [eq_comm] using h⟩

/-- A store through a mode that is not the accumulator. -/
theorem storeFrom_next {reg : State → Byte} {op : Operand} {s t : State} (hop : op.mode ≠ .accumulator)
    (h : storeFrom reg op s = .next t) : ∃ u, BusOnly s u ∧ t = advance op u := by
  obtain ⟨p, s1, h1, h⟩ := bindValue_eq_next.1 h
  obtain ⟨u, h2, h⟩ := bindState_eq_next.1 h
  have hp : p ≠ .accumulator := fun e => hop (resolve_accumulator (e ▸ h1))
  exact ⟨u, (resolve_readsOnly h1).busOnly.trans (writePlace_busOnly hp h2), by simpa [eq_comm] using h⟩

/-- INC or DEC through a mode that is not the accumulator. -/
theorem modifyWith_next {unit : Byte → Byte} {op : Operand} {s t : State} (hop : op.mode ≠ .accumulator)
    (h : modifyWith unit op s = .next t) : ∃ m u, BusOnly s u ∧ t = advance op (u.setZN (unit m)) := by
  obtain ⟨p, s1, h1, h⟩ := bindValue_eq_next.1 h
  obtain ⟨m, s2, h2, h⟩ := bindValue_eq_next.1 h
  obtain ⟨u, h3, h⟩ := bindState_eq_next.1 h
  have hp : p ≠ .accumulator := fun e => hop (resolve_accumulator (e ▸ h1))
  exact ⟨m, u, ((resolve_readsOnly h1).trans (readPlace_readsOnly h2)).busOnly.trans (writePlace_busOnly hp h3),
    by simpa [eq_comm] using h⟩

/-- A shift writes A in accumulator mode and one byte on the bus otherwise. -/
theorem shiftWith_next {unit : Byte → Bool → Byte × Bool} {op : Operand} {s t : State}
    (h : shiftWith unit op s = .next t) :
    ∃ r u w, BusOnly s u ∧ (w = u ∨ op.mode = .accumulator ∧ w = u.setA r.1) ∧
      t = advance op (w.setFlags (w.flags.shifted r)) := by
  obtain ⟨p, s1, h1, h⟩ := bindValue_eq_next.1 h
  obtain ⟨m, s2, h2, h⟩ := bindValue_eq_next.1 h
  obtain ⟨w, h3, h⟩ := bindState_eq_next.1 h
  have hr := ((resolve_readsOnly h1).trans (readPlace_readsOnly h2)).busOnly
  obtain rfl : _ = t := by simpa using h
  rcases writePlace_next h3 with ⟨rfl, rfl⟩ | ⟨_, _, hw⟩
  · exact ⟨_, s2, _, hr, .inr ⟨resolve_accumulator h1, rfl⟩, rfl⟩
  · exact ⟨_, w, w, hr.trans (memWrite_busOnly hw), .inl rfl, rfl⟩

/-- A jump writes PC and nothing else. -/
theorem jumpTo_next {op : Operand} {s t : State} (h : jumpTo op s = .next t) :
    ∃ u pc, ReadsOnly s u ∧ t = u.setPc pc := by
  obtain ⟨ea, u, hr, h⟩ := bindValue_eq_next.1 h
  exact ⟨u, ea, resolveAddress_readsOnly hr, by simpa [eq_comm] using h⟩

/-- A branch, taken or not, writes PC and nothing else. -/
theorem branchIf_next {cond : Flags → Bool} {op : Operand} {s t : State} (h : branchIf cond op s = .next t) :
    ∃ u pc, ReadsOnly s u ∧ t = u.setPc pc := by
  obtain ⟨ea, u, hr, h⟩ := bindValue_eq_next.1 h
  split at h
  · exact ⟨u, ea, resolveAddress_readsOnly hr, by simpa [eq_comm] using h⟩
  · exact ⟨u, u.pc + 1, resolveAddress_readsOnly hr, by simpa [eq_comm] using h⟩

/-- A push and the generic advance. -/
theorem pushThen_next {s t : State} {v : Byte}
    (h : bindState (push v s) (fun s1 => .next (advance .implied s1)) = (.next t : StepResult)) :
    ∃ u, StackOnly s u ∧ t = advance .implied u := by
  obtain ⟨u, hp, h⟩ := bindState_eq_next.1 h
  exact ⟨u, push_stackOnly hp, by simpa [eq_comm] using h⟩

/-- A pull, then register writes. -/
theorem pullThen_next {s t : State} {g : Byte → State → State}
    (h : bindValue (pull s) (fun v s1 => .next (g v s1)) = (.next t : StepResult)) :
    ∃ v u, StackOnly s u ∧ t = g v u := by
  obtain ⟨v, u, hp, h⟩ := bindValue_eq_next.1 h
  exact ⟨v, u, pull_stackOnly hp, by simpa [eq_comm] using h⟩

/-- JSR moves SP and writes PC. -/
theorem jsr_next {op : Operand} {s t : State} (h : formMeaning .jsr op s = .next t) :
    ∃ u pc, StackOnly s u ∧ t = u.setPc pc := by
  obtain ⟨ea, s1, hr, h⟩ := bindValue_eq_next.1 h
  obtain ⟨u, hp, h⟩ := bindState_eq_next.1 h
  exact ⟨u, ea, (resolveAddress_readsOnly hr).busOnly.stackOnly.trans (pushWord_stackOnly hp),
    by simpa [eq_comm] using h⟩

/-- RTS moves SP and writes PC. -/
theorem execRts_next {s t : State} (h : execRts s = .next t) : ∃ u pc, StackOnly s u ∧ t = u.setPc pc := by
  obtain ⟨w, u, hp, h⟩ := bindValue_eq_next.1 h
  exact ⟨u, w + 1, pullWord_stackOnly hp, by simpa [eq_comm] using h⟩

/-- RTI moves SP and loads P and PC. -/
theorem execRti_next {s t : State} (h : execRti s = .next t) :
    ∃ v u pc, StackOnly (s.setP v) u ∧ t = u.setPc pc := by
  obtain ⟨v, s1, w, u, h1, h2, rfl⟩ := returnFromBreak_next h
  have hs1 : StackOnly (s.setP v) (s1.setP v) := by rw [pull_stackOnly h1]; rfl
  exact ⟨v, u, w, hs1.trans (pullWord_stackOnly h2), rfl⟩

/-- BRK's mask as one flag update. -/
theorem State.maskOnBreak_eq (s : State) :
    s.maskOnBreak = s.setFlags { s.flags with i := s.params.brkSetsI || s.flags.i } := by
  unfold State.maskOnBreak
  split <;> simp [State.setFlags, *]

/-- BRK moves SP, sets I where BRK_SETS_I says so, and writes PC. -/
theorem execBrk_next {s t : State} (h : execBrk s = .next t) :
    ∃ u pc, StackOnly (s.setFlags { s.flags with i := s.params.brkSetsI || s.flags.i }) u ∧ t = u.setPc pc := by
  obtain ⟨s1, s2, w, u, h1, h2, h3, rfl⟩ := takeBreak_next h
  have hpush : StackOnly s s2 := (pushWord_stackOnly h1).trans (push_stackOnly h2)
  have hmask : StackOnly (s.setFlags { s.flags with i := s.params.brkSetsI || s.flags.i }) s2.maskOnBreak := by
    rw [State.maskOnBreak_eq, hpush]; rfl
  exact ⟨u, w, hmask.trans (readPair_readsOnly h3).busOnly.stackOnly, rfl⟩

/-- A legal operand of a mnemonic that has no accumulator row is not the accumulator. -/
theorem mode_ne_accumulator {m : Mnemonic} {op : Operand} (hm : .accumulator ∉ legalModes m)
    (h : legalForm (m, op) = true) : op.mode ≠ .accumulator :=
  fun e => hm (e ▸ by simpa [legalForm] using h)

/-! ### The writers of the registers and the flags -/

/-- The writers of A, X, Y and SP, over the legal (mnemonic, operand) pairs (10_state R31 to R34). -/
theorem formMeaning_registers {m : Mnemonic} {op : Operand} {s t : State} (hl : legalForm (m, op) = true)
    (h : formMeaning m op s = .next t) :
    (t.a ≠ s.a → m ∈ [Mnemonic.lda, .txa, .tya, .pla, .adc, .sbc, .and, .ora, .eor] ∨
      (m ∈ [Mnemonic.asl, .lsr, .rol, .ror] ∧ op.mode = .accumulator)) ∧
    (t.x ≠ s.x → m ∈ [Mnemonic.ldx, .tax, .tsx, .inx, .dex]) ∧
    (t.y ≠ s.y → m ∈ [Mnemonic.ldy, .tay, .iny, .dey]) ∧
    (t.sp ≠ s.sp → m ∈ [Mnemonic.txs, .pha, .php, .pla, .plp, .jsr, .rts, .rti, .brk]) := by
  cases m
  case cmp | cpx | cpy | adc | sbc | and | ora | eor | bit | lda | ldx | ldy =>
    obtain ⟨v, u, hu, rfl⟩ := readThen_next h
    simp [hu.a, hu.x, hu.y, hu.sp]
  case sta | stx | sty =>
    obtain ⟨u, hu, rfl⟩ := storeFrom_next (mode_ne_accumulator (by decide) hl) h
    simp [hu.stackOnly.a, hu.stackOnly.x, hu.stackOnly.y, hu.sp]
  case inc | dec =>
    obtain ⟨v, u, hu, rfl⟩ := modifyWith_next (mode_ne_accumulator (by decide) hl) h
    simp [hu.stackOnly.a, hu.stackOnly.x, hu.stackOnly.y, hu.sp]
  case asl | lsr | rol | ror =>
    obtain ⟨r, u, w, hu, rfl | ⟨hacc, rfl⟩, rfl⟩ := shiftWith_next h
    · simp [hu.stackOnly.a, hu.stackOnly.x, hu.stackOnly.y, hu.sp]
    · simp [hacc, hu.stackOnly.x, hu.stackOnly.y, hu.sp]
  case jmp =>
    obtain ⟨u, pc, hu, rfl⟩ := jumpTo_next h
    simp [hu.a, hu.x, hu.y, hu.sp]
  case bcc | bcs | beq | bne | bmi | bpl | bvc | bvs =>
    simp only [formMeaning] at h
    obtain ⟨u, pc, hu, rfl⟩ := branchIf_next h
    simp [hu.a, hu.x, hu.y, hu.sp]
  case pha | php =>
    obtain ⟨u, hu, rfl⟩ := pushThen_next h
    simp [hu.a, hu.x, hu.y]
  case pla | plp =>
    obtain ⟨v, u, hu, rfl⟩ := pullThen_next h
    simp [hu.a, hu.x, hu.y]
  case jsr =>
    obtain ⟨u, pc, hu, rfl⟩ := jsr_next h
    simp [hu.a, hu.x, hu.y]
  case rts =>
    obtain ⟨u, pc, hu, rfl⟩ := execRts_next h
    simp [hu.a, hu.x, hu.y]
  case rti =>
    obtain ⟨v, u, pc, hu, rfl⟩ := execRti_next h
    simp [hu.a, hu.x, hu.y]
  case brk =>
    obtain ⟨u, pc, hu, rfl⟩ := execBrk_next h
    simp [hu.a, hu.x, hu.y]
  case tax | tay | txa | tya | tsx | txs | inx | iny | dex | dey | clc | sec | cld | sed | cli | sei | clv | nop =>
    obtain rfl := Host.Outcome.next.inj h
    simp

/-- Settles O53: every row of the table has its mnemonic's meaning, whose answer is known up to bus accesses. -/
theorem registersChangeOnlyByTheirWriters : Obligations.RegistersChangeOnlyByTheirWriters :=
  fun i s _ h => formMeaning_registers (instr_wellFormed i) (exec_eq_formMeaning i s ▸ h)

/-- The writers of the six flags, over the legal (mnemonic, operand) pairs (10_state R37 to R44, 40 R151). -/
theorem formMeaning_flags {m : Mnemonic} {op : Operand} {s t : State} (hl : legalForm (m, op) = true)
    (h : formMeaning m op s = .next t) :
    let zn := [Mnemonic.lda, .ldx, .ldy, .tax, .tay, .txa, .tya, .tsx, .pla, .and, .ora, .eor, .adc, .sbc, .inc, .dec,
      .inx, .iny, .dex, .dey, .asl, .lsr, .rol, .ror, .cmp, .cpx, .cpy, .bit, .plp, .rti]
    (t.flags.c ≠ s.flags.c → m ∈
      [Mnemonic.adc, .sbc, .cmp, .cpx, .cpy, .asl, .lsr, .rol, .ror, .clc, .sec, .plp, .rti]) ∧
    (t.flags.z ≠ s.flags.z → m ∈ zn) ∧ (t.flags.n ≠ s.flags.n → m ∈ zn) ∧
    (t.flags.i ≠ s.flags.i →
      m ∈ [Mnemonic.cli, .sei, .plp, .rti] ∨ (m = .brk ∧ s.params.brkSetsI = true)) ∧
    (t.flags.d ≠ s.flags.d → m ∈ [Mnemonic.cld, .sed, .plp, .rti]) ∧
    (t.flags.v ≠ s.flags.v → m ∈ [Mnemonic.adc, .sbc, .bit, .clv, .plp, .rti]) := by
  intro zn
  cases m
  case cmp | cpx | cpy | adc | sbc | and | ora | eor | bit | lda | ldx | ldy =>
    obtain ⟨v, u, hu, rfl⟩ := readThen_next h
    simp [zn, hu.flags, Flags.compare, Flags.ofAlu, Flags.setZN, Flags.bitTest]
  case sta | stx | sty =>
    obtain ⟨u, hu, rfl⟩ := storeFrom_next (mode_ne_accumulator (by decide) hl) h
    simp [hu.stackOnly.flags]
  case inc | dec =>
    obtain ⟨v, u, hu, rfl⟩ := modifyWith_next (mode_ne_accumulator (by decide) hl) h
    simp [zn, hu.stackOnly.flags, Flags.setZN]
  case asl | lsr | rol | ror =>
    obtain ⟨r, u, w, hu, rfl | ⟨_, rfl⟩, rfl⟩ := shiftWith_next h <;>
      simp [zn, hu.stackOnly.flags, Flags.shifted, Flags.setZN]
  case jmp =>
    obtain ⟨u, pc, hu, rfl⟩ := jumpTo_next h
    simp [hu.flags]
  case bcc | bcs | beq | bne | bmi | bpl | bvc | bvs =>
    simp only [formMeaning] at h
    obtain ⟨u, pc, hu, rfl⟩ := branchIf_next h
    simp [hu.flags]
  case pha | php =>
    obtain ⟨u, hu, rfl⟩ := pushThen_next h
    simp [hu.flags]
  case pla | plp =>
    obtain ⟨v, u, hu, rfl⟩ := pullThen_next h
    simp [zn, hu.flags, Flags.setZN]
  case jsr =>
    obtain ⟨u, pc, hu, rfl⟩ := jsr_next h
    simp [hu.flags]
  case rts =>
    obtain ⟨u, pc, hu, rfl⟩ := execRts_next h
    simp [hu.flags]
  case rti => simp [zn]
  case brk =>
    obtain ⟨u, pc, hu, rfl⟩ := execBrk_next h
    cases hb : s.params.brkSetsI <;> simp [hu.flags, hb]
  case tax | tay | txa | tya | tsx | txs | inx | iny | dex | dey | clc | sec | cld | sed | cli | sei | clv | nop =>
    obtain rfl := Host.Outcome.next.inj h
    simp [zn, Flags.setZN]

/-- Settles O54, as O53 is settled. -/
theorem flagsChangeOnlyByTheirWriters : Obligations.FlagsChangeOnlyByTheirWriters :=
  fun i s _ h => formMeaning_flags (instr_wellFormed i) (exec_eq_formMeaning i s ▸ h)

/-! ### Runs that differ in D and I -/

/-- t is s but for the values of D and I. -/
def DIVariant (s t : State) : Prop := ∃ d i, t = { s with flags := { s.flags with d := d, i := i } }

/-- Two outcomes of one kind: the same fault or refusal, or answers related by R. -/
inductive SameOutcome {β : Type} (R : β → β → Prop) :
    Host.Outcome β Fault Refusal → Host.Outcome β Fault Refusal → Prop
  | next {b b' : β} (h : R b b') : SameOutcome R (.next b) (.next b')
  | fault (e : Fault) : SameOutcome R (.fault e) (.fault e)
  | refused (r : Refusal) : SameOutcome R (.refused r) (.refused r)

/-- The same value, in states that differ in D and I at most. -/
def ValueVariant {α : Type} (p q : α × State) : Prop := q.1 = p.1 ∧ DIVariant p.2 q.2

/-- The operation answers the same value and does the same whatever D and I are. -/
def ValueIgnoresDI {α : Type} (f : State → Result α) : Prop :=
  ∀ s t, DIVariant s t → SameOutcome ValueVariant (f s) (f t)

/-- The operation does the same whatever D and I are. -/
def IgnoresDI (f : State → StepResult) : Prop := ∀ s t, DIVariant s t → SameOutcome DIVariant (f s) (f t)

theorem outcomeWithoutDI_eq {r r' : StepResult} (h : SameOutcome DIVariant r r') :
    outcomeWithoutDI r' = outcomeWithoutDI r := by
  cases h with
  | next h => obtain ⟨d, i, rfl⟩ := h; rfl
  | fault e => rfl
  | refused r => rfl

/-! Sequences. -/

theorem SameOutcome.bindValue {α β : Type} {R : β → β → Prop} {r r' : Result α}
    {f f' : α → State → Host.Outcome β Fault Refusal} (h : SameOutcome ValueVariant r r')
    (hf : ∀ v s t, DIVariant s t → SameOutcome R (f v s) (f' v t)) :
    SameOutcome R (bindValue r f) (bindValue r' f') := by
  cases h with
  | @next p q h =>
    obtain ⟨v, s⟩ := p
    obtain ⟨w, t⟩ := q
    obtain ⟨rfl, hst⟩ : w = v ∧ DIVariant s t := h
    exact hf _ s t hst
  | fault e => exact .fault e
  | refused r => exact .refused r

theorem SameOutcome.bindState {β : Type} {R : β → β → Prop} {r r' : StepResult}
    {f f' : State → Host.Outcome β Fault Refusal} (h : SameOutcome DIVariant r r')
    (hf : ∀ s t, DIVariant s t → SameOutcome R (f s) (f' t)) : SameOutcome R (bindState r f) (bindState r' f') := by
  cases h with
  | next h => exact hf _ _ h
  | fault e => exact .fault e
  | refused r => exact .refused r

section fields
variable {s t : State}
theorem DIVariant.a (h : DIVariant s t) : t.a = s.a := by obtain ⟨_, _, rfl⟩ := h; rfl
theorem DIVariant.x (h : DIVariant s t) : t.x = s.x := by obtain ⟨_, _, rfl⟩ := h; rfl
theorem DIVariant.y (h : DIVariant s t) : t.y = s.y := by obtain ⟨_, _, rfl⟩ := h; rfl
end fields

/-! The bus, the stack and the resolver. -/

theorem memRead_ignoresDI (a : Addr) : ValueIgnoresDI (memRead a) := by
  rintro s _ ⟨d, i, rfl⟩
  cases hm : s.mountAt a with
  | none =>
    rw [memRead_unmapped hm, memRead_unmapped (by exact hm)]
    exact .fault _
  | some m =>
    rw [memRead_of_mount hm, memRead_of_mount (by exact hm)]
    split
    · exact .next ⟨rfl, d, i, rfl⟩
    · exact .next ⟨rfl, d, i, rfl⟩

theorem memWrite_ignoresDI (a : Addr) (v : Byte) : IgnoresDI (memWrite a v) := by
  rintro s _ ⟨d, i, rfl⟩
  cases hm : s.mountAt a with
  | none =>
    rw [memWrite_unmapped hm, memWrite_unmapped (by exact hm)]
    exact .fault _
  | some m =>
    rw [memWrite_of_mount hm, memWrite_of_mount (by exact hm)]
    exact .next ⟨d, i, rfl⟩

theorem readPair_ignoresDI (lo hi : Addr) : ValueIgnoresDI (readPair lo hi) := fun s t h =>
  (memRead_ignoresDI lo s t h).bindValue fun _ s t h =>
    (memRead_ignoresDI hi s t h).bindValue fun _ _ _ h => .next ⟨rfl, h⟩

theorem push_ignoresDI (v : Byte) : IgnoresDI (push v) := by
  rintro s _ ⟨d, i, rfl⟩
  refine (memWrite_ignoresDI _ v s _ ⟨d, i, rfl⟩).bindState ?_
  rintro s _ ⟨d, i, rfl⟩
  exact .next ⟨d, i, rfl⟩

theorem pull_ignoresDI : ValueIgnoresDI pull := by
  rintro s _ ⟨d, i, rfl⟩
  exact memRead_ignoresDI _ _ _ ⟨d, i, rfl⟩

theorem pushWord_ignoresDI (w : Addr) : IgnoresDI (pushWord w) := fun s t h =>
  (push_ignoresDI _ s t h).bindState (push_ignoresDI _)

theorem pullWord_ignoresDI : ValueIgnoresDI pullWord := fun s t h =>
  (pull_ignoresDI s t h).bindValue fun _ s t h => (pull_ignoresDI s t h).bindValue fun _ _ _ h => .next ⟨rfl, h⟩

theorem resolve_ignoresDI (op : Operand) : ValueIgnoresDI (resolve op) := by
  rintro s _ ⟨d, i, rfl⟩
  cases op
  case indirect | indexedIndirect | indirectIndexed =>
    refine (readPair_ignoresDI _ _ s _ ⟨d, i, rfl⟩).bindValue ?_
    rintro w s _ ⟨d, i, rfl⟩
    exact .next ⟨rfl, d, i, rfl⟩
  all_goals exact .next ⟨rfl, d, i, rfl⟩

theorem readPlace_ignoresDI (p : Place) : ValueIgnoresDI (readPlace p) := by
  rintro s _ ⟨d, i, rfl⟩
  cases p with
  | memory ea => exact memRead_ignoresDI ea s _ ⟨d, i, rfl⟩
  | accumulator | constant => exact .next ⟨rfl, d, i, rfl⟩
  | nothing | target => exact .fault _

theorem writePlace_ignoresDI (p : Place) (v : Byte) : IgnoresDI (writePlace p v) := by
  rintro s _ ⟨d, i, rfl⟩
  cases p with
  | memory ea => exact memWrite_ignoresDI ea v s _ ⟨d, i, rfl⟩
  | accumulator => exact .next ⟨d, i, rfl⟩
  | nothing | constant | target => exact .fault _

theorem placeAddress_ignoresDI (p : Place) : ValueIgnoresDI (placeAddress p) := by
  rintro s _ ⟨d, i, rfl⟩
  cases p with
  | constant | memory | target => exact .next ⟨rfl, d, i, rfl⟩
  | nothing | accumulator => exact .fault _

theorem readOperand_ignoresDI (op : Operand) : ValueIgnoresDI (readOperand op) := fun s t h =>
  (resolve_ignoresDI op s t h).bindValue readPlace_ignoresDI

theorem resolveAddress_ignoresDI (op : Operand) : ValueIgnoresDI (resolveAddress op) := fun s t h =>
  (resolve_ignoresDI op s t h).bindValue placeAddress_ignoresDI

/-! The instructions. -/

theorem readThen_ignoresDI (op : Operand) {g : Byte → State → State}
    (hg : ∀ m s t, DIVariant s t → DIVariant (g m s) (g m t)) :
    IgnoresDI fun s => bindValue (readOperand op s) fun m s1 => .next (g m s1) := fun s t h =>
  (readOperand_ignoresDI op s t h).bindValue fun m s1 t1 h1 => .next (hg m s1 t1 h1)

theorem pullThen_ignoresDI {g : Byte → State → State}
    (hg : ∀ v s t, DIVariant s t → DIVariant (g v s) (g v t)) :
    IgnoresDI fun s => bindValue (pull s) fun v s1 => .next (g v s1) := fun s t h =>
  (pull_ignoresDI s t h).bindValue fun v s1 t1 h1 => .next (hg v s1 t1 h1)

theorem storeFrom_ignoresDI {reg : State → Byte} (hreg : ∀ {s t}, DIVariant s t → reg t = reg s) (op : Operand) :
    IgnoresDI (storeFrom reg op) := fun s t h =>
  (resolve_ignoresDI op s t h).bindValue fun p s1 t1 h1 => by
    rw [hreg h1]
    exact (writePlace_ignoresDI p _ s1 t1 h1).bindState fun | _, _, ⟨d, i, rfl⟩ => .next ⟨d, i, rfl⟩

theorem modifyWith_ignoresDI (unit : Byte → Byte) (op : Operand) : IgnoresDI (modifyWith unit op) := fun s t h =>
  (resolve_ignoresDI op s t h).bindValue fun p s1 t1 h1 =>
    (readPlace_ignoresDI p s1 t1 h1).bindValue fun _ s2 t2 h2 =>
      (writePlace_ignoresDI p _ s2 t2 h2).bindState fun | _, _, ⟨d, i, rfl⟩ => .next ⟨d, i, rfl⟩

theorem shiftWith_ignoresDI (unit : Byte → Bool → Byte × Bool) (op : Operand) : IgnoresDI (shiftWith unit op) :=
  fun s t h => (resolve_ignoresDI op s t h).bindValue fun p s1 t1 h1 =>
    (readPlace_ignoresDI p s1 t1 h1).bindValue fun
      | _, _, _, ⟨_, _, rfl⟩ => (writePlace_ignoresDI p _ _ _ ⟨_, _, rfl⟩).bindState fun
        | _, _, ⟨d, i, rfl⟩ => .next ⟨d, i, rfl⟩

theorem jumpTo_ignoresDI (op : Operand) : IgnoresDI (jumpTo op) := fun s t h =>
  (resolveAddress_ignoresDI op s t h).bindValue fun | _, _, _, ⟨d, i, rfl⟩ => .next ⟨d, i, rfl⟩

/-- A branch whose condition looks at neither D nor I. -/
theorem branchIf_ignoresDI {cond : Flags → Bool} (hcond : ∀ {s t}, DIVariant s t → cond t.flags = cond s.flags)
    (op : Operand) : IgnoresDI (branchIf cond op) := fun s t h =>
  (resolveAddress_ignoresDI op s t h).bindValue fun ea s1 t1 h1 => by
    rw [hcond h1]
    obtain ⟨d, i, rfl⟩ := h1
    split
    · exact .next ⟨d, i, rfl⟩
    · exact .next ⟨d, i, rfl⟩

theorem jsr_ignoresDI (op : Operand) : IgnoresDI (formMeaning .jsr op) := fun s t h =>
  (resolveAddress_ignoresDI op s t h).bindValue fun
    | _, _, _, ⟨_, _, rfl⟩ => (pushWord_ignoresDI _ _ _ ⟨_, _, rfl⟩).bindState fun
      | _, _, ⟨d, i, rfl⟩ => .next ⟨d, i, rfl⟩

theorem execRts_ignoresDI : IgnoresDI execRts := fun s t h =>
  (pullWord_ignoresDI s t h).bindValue fun | _, _, _, ⟨d, i, rfl⟩ => .next ⟨d, i, rfl⟩

theorem execRti_ignoresDI : IgnoresDI execRti := fun s t h =>
  (pull_ignoresDI s t h).bindValue fun
    | _, _, _, ⟨_, _, rfl⟩ => (pullWord_ignoresDI _ _ ⟨_, _, rfl⟩).bindValue fun
      | _, _, _, ⟨d, i, rfl⟩ => .next ⟨d, i, rfl⟩

theorem execPha_ignoresDI : IgnoresDI execPha
  | _, _, ⟨_, _, rfl⟩ => (push_ignoresDI _ _ _ ⟨_, _, rfl⟩).bindState fun
    | _, _, ⟨d, i, rfl⟩ => .next ⟨d, i, rfl⟩

/-- Every rule but those of PHP and BRK does the same whatever D and I are. -/
theorem formMeaning_ignoresDI {m : Mnemonic} (hphp : m ≠ .php) (hbrk : m ≠ .brk) (op : Operand) :
    IgnoresDI (formMeaning m op) := by
  cases m
  case php => exact absurd rfl hphp
  case brk => exact absurd rfl hbrk
  case cmp | cpx | cpy | adc | sbc | and | ora | eor | bit | lda | ldx | ldy =>
    exact readThen_ignoresDI op fun | _, _, _, ⟨d, i, rfl⟩ => ⟨d, i, rfl⟩
  case sta => exact storeFrom_ignoresDI DIVariant.a op
  case stx => exact storeFrom_ignoresDI DIVariant.x op
  case sty => exact storeFrom_ignoresDI DIVariant.y op
  case inc | dec => exact modifyWith_ignoresDI _ op
  case asl | lsr | rol | ror => exact shiftWith_ignoresDI _ op
  case jmp => exact jumpTo_ignoresDI op
  case bcc | bcs | beq | bne | bmi | bpl | bvc | bvs =>
    unfold formMeaning
    exact branchIf_ignoresDI (fun ⟨_, _, h⟩ => by rw [h]) op
  case jsr => exact jsr_ignoresDI op
  case rts => exact execRts_ignoresDI
  case rti => exact execRti_ignoresDI
  case pha => exact execPha_ignoresDI
  case pla | plp => exact pullThen_ignoresDI fun | _, _, _, ⟨_, _, rfl⟩ => ⟨_, _, rfl⟩
  case tax | tay | txa | tya | tsx | txs | inx | iny | dex | dey | clc | sec | cld | sed | cli | sei | clv | nop =>
    rintro s _ ⟨d, i, rfl⟩
    exact .next ⟨_, _, rfl⟩

/-- Settles O56: the rules are related part by part, from the bus accesses up to the mnemonics. -/
theorem decimalAndInterruptFlagsGateNothing : Obligations.DecimalAndInterruptFlagsGateNothing := by
  intro i s d int hphp hbrk
  rw [exec_eq_formMeaning, exec_eq_formMeaning]
  exact outcomeWithoutDI_eq (formMeaning_ignoresDI hphp hbrk i.operand s _ ⟨d, int, rfl⟩)

end Sys2Proof.Machine

/-! PROOFS. The statements of 20_memory: the bus routes an access to the one mount that covers its address, a written byte
reads back, mounts stay apart, and what every instruction and every step keeps of memory and setup. -/

namespace Sys2Proof

/-- The modes whose place is a byte to read (40 R147). -/
def Mode.readable (d : Mode) : Bool := decide (d ∉ [Mode.implied, .relative, .indirect])

/-- The modes whose place is a byte to write (40 R148). -/
def Mode.writable (d : Mode) : Bool := decide (d ∉ [Mode.implied, .immediate, .relative, .indirect])

/-- The modes whose place has an address to go to (40 R149). -/
def Mode.addressed (d : Mode) : Bool := decide (d ∉ [Mode.implied, .accumulator])

end Sys2Proof

namespace Sys2Proof.Machine

/-! ### Every instruction extends the run -/

/-- What holds of every row of a mnemonic holds of a legal operand. -/
theorem mode_of_legalForm {m : Mnemonic} {op : Operand} {f : Mode → Bool} (hm : ∀ d ∈ legalModes m, f d = true)
    (h : legalForm (m, op) = true) : f op.mode = true :=
  hm _ (by simpa [legalForm] using h)

section places
variable {op : Operand} {s s1 : State} {p : Place}

/-- The modes that resolve to no place, to a constant and to a target; resolve_accumulator names the one of A. -/
theorem mode_of_resolve (h : resolve op s = .next (p, s1)) :
    (p = .nothing → op.mode = .implied) ∧ (∀ v, p = .constant v → op.mode = .immediate) ∧
      ∀ d ea, p = .target d ea → op.mode = .relative ∨ op.mode = .indirect := by
  cases op <;> simp only [resolve] at h
  case indirect | indexedIndirect | indirectIndexed =>
    obtain ⟨w, s2, _, h⟩ := bindValue_eq_next.1 h
    obtain ⟨rfl, rfl⟩ : _ ∧ _ := by simpa using h
    simp [Operand.mode]
  all_goals
    obtain ⟨rfl, rfl⟩ : _ ∧ _ := by simpa using h
    simp [Operand.mode]

theorem resolve_readable (hop : op.mode.readable = true) (h : resolve op s = .next (p, s1)) :
    p ≠ .nothing ∧ ∀ d ea, p ≠ .target d ea := by
  obtain ⟨hn, _, ht⟩ := mode_of_resolve h
  simp only [Mode.readable, decide_eq_true_eq] at hop
  exact ⟨fun e => hop (by simp [hn e]), fun d ea e => hop (by rcases ht d ea e with e | e <;> simp [e])⟩

theorem resolve_writable (hop : op.mode.writable = true) (h : resolve op s = .next (p, s1)) :
    p = .accumulator ∨ ∃ ea, p = .memory ea := by
  obtain ⟨hn, hc, ht⟩ := mode_of_resolve h
  simp only [Mode.writable, decide_eq_true_eq] at hop
  cases p with
  | accumulator => exact .inl rfl
  | memory ea => exact .inr ⟨ea, rfl⟩
  | nothing => exact absurd (hn rfl) (by intro e; simp [e] at hop)
  | constant v => exact absurd (hc v rfl) (by intro e; simp [e] at hop)
  | target d ea => exact absurd (ht d ea rfl) (by rintro (e | e) <;> simp [e] at hop)

end places

theorem readable_of_writable {d : Mode} (h : d.writable = true) : d.readable = true := by
  revert h; cases d <;> decide

theorem readOperand_behaves {op : Operand} (hop : op.mode.readable = true) (s : State) :
    Behaves s Prod.snd (readOperand op s) :=
  (resolve_behaves op s).bindValue fun _ s1 h => readPlace_behaves (resolve_readable hop h) s1

theorem resolveAddress_behaves {op : Operand} (hop : op.mode.addressed = true) (s : State) :
    Behaves s Prod.snd (resolveAddress op s) :=
  (resolve_behaves op s).bindValue fun p s1 h => by
    cases p with
    | nothing => simp [Mode.addressed, (mode_of_resolve h).1 rfl] at hop
    | accumulator => simp [Mode.addressed, resolve_accumulator h] at hop
    | constant | memory | target => exact behaves_value ⟨rfl, rfl, rfl, rfl, rfl, rfl⟩

/-- An instruction that reads its operand and then only writes registers. -/
theorem readThen_behaves {op : Operand} (hop : op.mode.readable = true) {g : Byte → State → State}
    (hg : ∀ m s, RegistersOnly s (g m s)) (s : State) :
    Behaves s id (bindValue (readOperand op s) fun m s1 => .next (g m s1)) :=
  (readOperand_behaves hop s).bindValue fun m s1 _ => behaves_next (hg m s1)

/-- A pull, then register writes. -/
theorem pullThen_behaves {g : Byte → State → State} (hg : ∀ v s, RegistersOnly s (g v s)) (s : State) :
    Behaves s id (bindValue (pull s) fun v s1 => .next (g v s1)) :=
  (pull_behaves s).bindValue fun v s1 _ => behaves_next (hg v s1)

/-- A push and the generic advance. -/
theorem pushThen_behaves (v : Byte) (s : State) :
    Behaves s id (bindState (push v s) fun s1 => .next (advance .implied s1)) :=
  (push_behaves v s).bindState fun _ _ => behaves_next ⟨rfl, rfl, rfl, rfl, rfl, rfl⟩

theorem storeFrom_behaves (reg : State → Byte) {op : Operand} (hop : op.mode.writable = true) (s : State) :
    Behaves s id (storeFrom reg op s) :=
  (resolve_behaves op s).bindValue fun _ s1 h =>
    (writePlace_behaves (resolve_writable hop h) _ s1).bindState fun _ _ =>
      behaves_next ⟨rfl, rfl, rfl, rfl, rfl, rfl⟩

theorem modifyWith_behaves (unit : Byte → Byte) {op : Operand} (hop : op.mode.writable = true) (s : State) :
    Behaves s id (modifyWith unit op s) :=
  (resolve_behaves op s).bindValue fun _ s1 h =>
    (readPlace_behaves (resolve_readable (readable_of_writable hop) h) s1).bindValue fun _ s2 _ =>
      (writePlace_behaves (resolve_writable hop h) _ s2).bindState fun _ _ =>
        behaves_next ⟨rfl, rfl, rfl, rfl, rfl, rfl⟩

theorem shiftWith_behaves (unit : Byte → Bool → Byte × Bool) {op : Operand} (hop : op.mode.writable = true)
    (s : State) : Behaves s id (shiftWith unit op s) :=
  (resolve_behaves op s).bindValue fun _ s1 h =>
    (readPlace_behaves (resolve_readable (readable_of_writable hop) h) s1).bindValue fun _ s2 _ =>
      (writePlace_behaves (resolve_writable hop h) _ s2).bindState fun _ _ =>
        behaves_next ⟨rfl, rfl, rfl, rfl, rfl, rfl⟩

theorem jumpTo_behaves {op : Operand} (hop : op.mode.addressed = true) (s : State) : Behaves s id (jumpTo op s) :=
  (resolveAddress_behaves hop s).bindValue fun _ _ _ => behaves_next ⟨rfl, rfl, rfl, rfl, rfl, rfl⟩

theorem branchIf_behaves (cond : Flags → Bool) {op : Operand} (hop : op.mode.addressed = true) (s : State) :
    Behaves s id (branchIf cond op s) :=
  (resolveAddress_behaves hop s).bindValue fun _ _ _ => by
    split <;> exact behaves_next ⟨rfl, rfl, rfl, rfl, rfl, rfl⟩

theorem jsr_behaves {op : Operand} (hop : op.mode.addressed = true) (s : State) :
    Behaves s id (formMeaning .jsr op s) :=
  (resolveAddress_behaves hop s).bindValue fun _ s1 _ =>
    (pushWord_behaves _ s1).bindState fun _ _ => behaves_next ⟨rfl, rfl, rfl, rfl, rfl, rfl⟩

theorem execRts_behaves (s : State) : Behaves s id (execRts s) :=
  (pullWord_behaves s).bindValue fun _ _ _ => behaves_next ⟨rfl, rfl, rfl, rfl, rfl, rfl⟩

/-- Every rule of files 41 to 47, on its legal operands. -/
theorem formMeaning_behaves {m : Mnemonic} {op : Operand} (hl : legalForm (m, op) = true) (s : State) :
    Behaves s id (formMeaning m op s) := by
  cases m
  case cmp | cpx | cpy | adc | sbc | and | ora | eor | bit | lda | ldx | ldy =>
    refine readThen_behaves (mode_of_legalForm (by decide) hl) ?_ s
    exact fun _ _ => ⟨rfl, rfl, rfl, rfl, rfl, rfl⟩
  case sta | stx | sty => exact storeFrom_behaves _ (mode_of_legalForm (by decide) hl) s
  case inc | dec => exact modifyWith_behaves _ (mode_of_legalForm (by decide) hl) s
  case asl | lsr | rol | ror => exact shiftWith_behaves _ (mode_of_legalForm (by decide) hl) s
  case jmp => exact jumpTo_behaves (mode_of_legalForm (by decide) hl) s
  case bcc | bcs | beq | bne | bmi | bpl | bvc | bvs =>
    unfold formMeaning
    exact branchIf_behaves _ (mode_of_legalForm (by decide) hl) s
  case pha | php => exact pushThen_behaves _ s
  case pla | plp =>
    refine pullThen_behaves ?_ s
    exact fun _ _ => ⟨rfl, rfl, rfl, rfl, rfl, rfl⟩
  case jsr => exact jsr_behaves (mode_of_legalForm (by decide) hl) s
  case rts => exact execRts_behaves s
  case rti => exact returnFromBreak_behaves s
  case brk => exact takeBreak_behaves s
  case tax | tay | txa | tya | tsx | txs | inx | iny | dex | dey | clc | sec | cld | sed | cli | sei | clv | nop =>
    exact behaves_next ⟨rfl, rfl, rfl, rfl, rfl, rfl⟩

theorem exec_behaves (i : Instr) (s : State) : Behaves s id (exec i s) := by
  rw [exec_eq_formMeaning]
  exact formMeaning_behaves (instr_wellFormed i) s

/-- What an operation that answers has done. -/
theorem Behaves.extends_of_next {β : Type} {s : State} {st : β → State} {r : Host.Outcome β Fault Refusal} {b : β}
    (h : Behaves s st r) (hr : r = .next b) : Extends s (st b) := by
  subst hr; exact h

theorem exec_extends {i : Instr} {s t : State} (h : exec i s = .next t) : Extends s t :=
  (exec_behaves i s).extends_of_next h

/-- Settles O55: an instruction extends the run. -/
theorem setupNeverChanges : Obligations.SetupNeverChanges := fun _ _ _ h =>
  ⟨(exec_extends h).setup, (exec_extends h).logGrows⟩

/-! ### Every step keeps the invariant -/

/-- A fetch that finds an instruction has read its bytes and moved PC. -/
theorem fetch_extends {s t : State} {i : Instr} (h : fetch s = .next (i, t)) : Extends s t := by
  obtain ⟨op, s1, h1, h⟩ := bindValue_eq_next.1 h
  have hpc : Extends s (s1.setPc (s.pc + 1)) :=
    ((memRead_behaves _ s).extends_of_next h1).trans (RegistersOnly.extends ⟨rfl, rfl, rfl, rfl, rfl, rfl⟩)
  cases ht : opcodeTemplate op with
  | none => simp [ht] at h
  | some tmpl =>
    cases tmpl with
    | op0 j =>
      obtain ⟨_, rfl⟩ : _ ∧ _ := by simpa [ht] using h
      exact hpc
    | op8 f =>
      obtain ⟨b, s2, h2, h⟩ := bindValue_eq_next.1 (by simpa only [ht] using h)
      obtain ⟨_, rfl⟩ : _ ∧ _ := by simpa using h
      exact hpc.trans ((memRead_behaves _ _).extends_of_next h2)
    | op16 f =>
      obtain ⟨w, s2, h2, h⟩ := bindValue_eq_next.1 (by simpa only [ht] using h)
      obtain ⟨_, rfl⟩ : _ ∧ _ := by simpa using h
      exact hpc.trans ((readPair_behaves _ _ _).extends_of_next h2)

/-- A step that completes started Running, and is a fetch and an instruction. -/
theorem step_next {s t : State} (h : step s = .next t) :
    s.status = .running ∧ ∃ i s1, fetch s = .next (i, s1) ∧ exec i s1 = .next t := by
  unfold step at h
  cases hs : s.status with
  | running => exact ⟨rfl, bindValue_eq_next.1 (by simpa only [hs] using h)⟩
  | faulted e => simp [hs] at h

theorem step_extends {s t : State} (h : step s = .next t) : Extends s t := by
  obtain ⟨_, i, s1, h1, h2⟩ := step_next h
  exact (fetch_extends h1).trans (exec_extends h2)

/-- What extends a run keeps the invariant. -/
theorem Invariant.of_extends {s t : State} (h : Invariant s) (k : Extends s t) : Invariant t := by
  obtain ⟨hmounts, hstatus, _⟩ := k.setup
  obtain ⟨new, hlog, _, hdraws⟩ := k.logGrows
  obtain ⟨hcanonical, hbacked⟩ := k.shape ⟨h.memCanonical, h.memBacked⟩
  exact {
    memCanonical := hcanonical
    memBacked := hbacked
    mountsWellFormed := hmounts ▸ h.mountsWellFormed
    mountsDisjoint := hmounts ▸ h.mountsDisjoint
    running := hstatus.trans h.running
    drawsCounted := by
      have := h.drawsCounted
      rw [hlog, List.length_append]
      omega }

/-- Settles O47: a step extends the run, and that keeps the invariant. -/
theorem stepKeepsInvariant : Obligations.StepKeepsInvariant := fun _ _ h k => h.of_extends (step_extends k)

/-! ### Instructions that store nothing -/

theorem pull_mem {s t : State} {v : Byte} (h : pull s = .next (v, t)) : t.mem = s.mem := (pull_next h).2.mem

theorem pullWord_mem {s t : State} {w : Addr} (h : pullWord s = .next (w, t)) : t.mem = s.mem := by
  obtain ⟨_, _, s1, h1, h2, _⟩ := pullWord_next h
  exact (pull_mem h2).trans (pull_mem h1)

/-- A shift of A makes no bus access. -/
theorem shiftWith_accumulator_mem {unit : Byte → Bool → Byte × Bool} {op : Operand} {s t : State}
    (hop : op.mode = .accumulator) (h : shiftWith unit op s = .next t) : t.mem = s.mem := by
  cases op <;> cases hop
  obtain rfl := Host.Outcome.next.inj h
  rfl

/-- The rules with no write leave the list of bytes as it was (20_memory R69, 40 R164). -/
theorem formMeaning_mem {m : Mnemonic} {op : Operand} {s t : State}
    (hm : m ∉ [Mnemonic.sta, .stx, .sty, .inc, .dec, .pha, .php, .jsr, .brk])
    (hshift : m ∈ [Mnemonic.asl, .lsr, .rol, .ror] → op.mode = .accumulator)
    (h : formMeaning m op s = .next t) : t.mem = s.mem := by
  cases m
  case sta | stx | sty | inc | dec | pha | php | jsr | brk => simp at hm
  case cmp | cpx | cpy | adc | sbc | and | ora | eor | bit | lda | ldx | ldy =>
    obtain ⟨_, _, hu, rfl⟩ := readThen_next h
    exact hu.mem
  case asl | lsr | rol | ror => exact shiftWith_accumulator_mem (hshift (by simp)) h
  case jmp =>
    obtain ⟨_, _, hu, rfl⟩ := jumpTo_next h
    exact hu.mem
  case bcc | bcs | beq | bne | bmi | bpl | bvc | bvs =>
    simp only [formMeaning] at h
    obtain ⟨_, _, hu, rfl⟩ := branchIf_next h
    exact hu.mem
  case pla | plp =>
    obtain ⟨v, u, hu, h⟩ := bindValue_eq_next.1 h
    obtain rfl := Host.Outcome.next.inj h
    simp [pull_mem hu]
  case rts =>
    obtain ⟨w, u, hu, h⟩ := bindValue_eq_next.1 h
    obtain rfl := Host.Outcome.next.inj h
    simp [pullWord_mem hu]
  case rti =>
    obtain ⟨v, s1, w, u, h1, h2, rfl⟩ := returnFromBreak_next h
    simp [pullWord_mem h2, pull_mem h1]
  case tax | tay | txa | tya | tsx | txs | inx | iny | dex | dey | clc | sec | cld | sed | cli | sei | clv | nop =>
    obtain rfl := Host.Outcome.next.inj h
    rfl

/-- Settles O50: the list of bytes is the same, and so is where each address finds its byte. -/
theorem nonStoringInstructionsKeepMemory : Obligations.NonStoringInstructionsKeepMemory := by
  intro i s t hm hshift h
  obtain ⟨hmounts, _, hparams⟩ := (exec_extends h).setup
  have hmem : t.mem = s.mem := formMeaning_mem hm hshift (exec_eq_formMeaning i s ▸ h)
  exact ⟨hmem, State.peek_congr hmounts hparams hmem⟩

/-! ### Routing of accesses to mounts -/

theorem Mount.covers_iff {m : Mount} {a : Addr} : m.covers a = true ↔ m.start ≤ a.toNat ∧ a.toNat ≤ m.stop := by
  simp [Mount.covers]

/-- Where mounts share no address, the mount that answers is the one that covers the address (20_memory R63). -/
theorem State.mountAt_eq_some {s : State} (hd : s.mounts.Pairwise (fun m n => m.overlaps n = false)) {m : Mount}
    {a : Addr} (hm : m ∈ s.mounts) (h1 : m.start ≤ a.toNat) (h2 : a.toNat ≤ m.stop) : s.mountAt a = some m := by
  cases hn : s.mountAt a with
  | none => exact absurd (Mount.covers_iff.2 ⟨h1, h2⟩) (List.find?_eq_none.1 hn m hm)
  | some n =>
    obtain ⟨hmem, hcov⟩ := State.mountAt_mem hn
    obtain ⟨h3, h4⟩ := Mount.covers_iff.1 hcov
    rw [State.mount_unique hd hm hmem h1 h2 h3 h4]

theorem State.mountAt_eq_none {s : State} {a : Addr} (h : ∀ m ∈ s.mounts, ¬(m.start ≤ a.toNat ∧ a.toNat ≤ m.stop)) :
    s.mountAt a = none :=
  List.find?_eq_none.2 fun m hm hc => h m hm (Mount.covers_iff.1 hc)

theorem State.cellAt_of_mount {s : State} {a : Addr} {m : Mount} (h : s.mountAt a = some m) :
    s.cellAt a = if m.kind = .device then none else some (m.cell s.params a) := by
  simp [State.cellAt, h]

/-- Settles O12: the covering mount is the one that answers. -/
theorem busReadRoutesToMount : Obligations.BusReadRoutesToMount := by
  refine fun s a hd => ⟨fun m hm h1 h2 => ?_, fun h => memRead_unmapped (State.mountAt_eq_none h)⟩
  have hat := State.mountAt_eq_some hd hm h1 h2
  rw [memRead_of_mount hat]
  refine ⟨fun hk => ?_, fun hk => ⟨s.mem.read (m.cell s.params a), ?_, rfl, ?_⟩⟩
  · rw [if_pos hk]; rfl
  · rw [State.peek, State.cellAt_of_mount hat, if_neg hk]; rfl
  · rw [if_neg hk]; rfl

/-- Settles O13: the covering mount is the one that takes the write; its kind says whether it holds the byte. -/
theorem busWriteRoutesToMount : Obligations.BusWriteRoutesToMount := by
  refine fun s a v hd => ⟨fun m hm h1 h2 => ?_, fun h => memWrite_unmapped (State.mountAt_eq_none h)⟩
  have hat := State.mountAt_eq_some hd hm h1 h2
  have hw := memWrite_of_mount (v := v) hat
  refine ⟨_, hw, (memWrite_next hw).1, fun hk => ?_, fun hk => ?_⟩
  · exact (memWrite_peek hw).1 rfl (by simpa [State.storeAt, hat] using hk)
  · rcases hk with hk | hk <;> simp [hk]

/-! ### Bytes of a store -/

/-- The RAM repeats every 2048 bytes under RAM_MIRROR (20_memory R73). -/
theorem ramMount_cell (p : Params) (a : Addr) :
    ramMount.cell p a = if p.ramMirror then (a &&& 0x07FF).toNat else a.toNat := by
  have hand : (a &&& 0x07FF).toNat = a.toNat % 2048 := Nat.and_two_pow_sub_one_eq_mod a.toNat 11
  rw [hand]
  cases hp : p.ramMirror <;> simp [Mount.cell, Mount.offset, ramMount, Config.ramStart, Config.ramMirrorSize, hp]

/-- Settles O14: the place of a RAM address, a read after a write, and the empty byte list at construction. -/
theorem writtenByteReadsBack : Obligations.WrittenByteReadsBack := by
  refine ⟨fun s a h => ?_, fun s t a v hw hst b => ⟨fun hb => ?_, (memWrite_peek hw).2⟩, fun a ha => ?_⟩
  · rw [State.cellAt_of_mount h, ramMount_cell]; rfl
  · exact memRead_of_peek ((memWrite_peek hw).1 hb hst)
  · rw [peek_reset, if_pos ha]

/-- Settles O15: the two reads in sequence, and the word of their bytes. -/
theorem readWordIsLittleEndian : Obligations.ReadWordIsLittleEndian := by
  refine ⟨fun s s1 s2 a lo hi h1 h2 => ?_, fun s a e h => ?_, rfl⟩
  · rw [readWord, readPair, h1, bindValue_next, h2, bindValue_next, wordOf_eq_ofNat]
  · rw [readWord, readPair, h, bindValue_fault]

/-! ### Mounting -/

theorem Mount.wellFormed_iff {m : Mount} : m.wellFormed = true ↔ m.start ≤ m.stop ∧ m.stop ≤ 0xFFFF := by
  rw [Mount.wellFormed, Bool.and_eq_true, decide_eq_true_eq, decide_eq_true_eq, Config.topAddress]

/-- Mounts that share an address overlap. -/
theorem Mount.overlaps_of_shared {m n : Mount} {a : Nat} (h1 : n.start ≤ a) (h2 : a ≤ n.stop) (h3 : m.start ≤ a)
    (h4 : a ≤ m.stop) : m.overlaps n = true := by
  simp only [Mount.overlaps, Bool.and_eq_true, decide_eq_true_eq]
  omega

/-- Mounts that are not empty overlap only where they share an address: the higher of the two starts. -/
theorem Mount.shared_of_overlaps {m n : Mount} (hm : m.start ≤ m.stop) (hn : n.start ≤ n.stop)
    (h : m.overlaps n = true) : ∃ a, n.start ≤ a ∧ a ≤ n.stop ∧ m.start ≤ a ∧ a ≤ m.stop := by
  simp only [Mount.overlaps, Bool.and_eq_true, decide_eq_true_eq] at h
  exact ⟨max m.start n.start, by omega⟩

theorem State.mount_of_free {s : State} {m : Mount} (hw : m.wellFormed = true)
    (hfree : ∀ n ∈ s.mounts, m.overlaps n = false) : s.mount m = .next { s with mounts := s.mounts ++ [m] } := by
  have hany : s.mounts.any m.overlaps = false := by simpa using hfree
  simp [State.mount, hw, hany]

theorem State.mount_refused {s : State} {m : Mount}
    (h : m.wellFormed = false ∨ ∃ n ∈ s.mounts, m.overlaps n = true) :
    s.mount m = .fault (.mountOverlap m.start m.stop s.log) := by
  have hc : (m.wellFormed && !s.mounts.any m.overlaps) = false := by
    rcases h with h | h
    · simp [h]
    · simp [List.any_eq_true.2 h]
  simp [State.mount, hc]

/-- Settles O16: the check on the bounds is the one of the statement, and overlap is a shared address. -/
theorem mountKeepsMountsApart : Obligations.MountKeepsMountsApart := by
  intro s m hwf hd
  constructor
  · intro hle htop hfree
    have hw : m.wellFormed = true := Mount.wellFormed_iff.2 ⟨hle, htop⟩
    have hapart : ∀ n ∈ s.mounts, m.overlaps n = false := fun n hn => by
      obtain ⟨hnle, _⟩ := Mount.wellFormed_iff.1 (hwf n hn)
      exact Bool.eq_false_iff.2 fun h => hfree n hn (Mount.shared_of_overlaps hle hnle h)
    refine ⟨_, State.mount_of_free hw hapart, rfl, ?_, ?_⟩
    · simpa [or_imp, forall_and, hw] using hwf
    · refine List.pairwise_append.2 ⟨hd, List.pairwise_singleton _ _, fun n hn q hq => ?_⟩
      rw [List.mem_singleton.1 hq, Mount.overlaps_comm]
      exact hapart n hn
  · intro h
    apply State.mount_refused
    rcases h with h | h | ⟨n, hn, a, h1, h2, h3, h4⟩
    · exact .inl (Bool.eq_false_iff.2 fun hw => Nat.not_le_of_lt h (Mount.wellFormed_iff.1 hw).1)
    · exact .inl (Bool.eq_false_iff.2 fun hw => Nat.not_le_of_lt h (Mount.wellFormed_iff.1 hw).2)
    · exact .inr ⟨n, hn, Mount.overlaps_of_shared h1 h2 h3 h4⟩

end Sys2Proof.Machine

/-! PROOFS. The statements of 30_encoding: encode and decode are inverse in both directions, the decoder rejects exactly
the unassigned bytes, and the opcode byte alone settles mnemonic, mode and length. -/

namespace Sys2Proof

/-! ### The decoder by its lookup -/

/-- The operand bytes os complete the template to i (30_encoding R107: formats F1, F2 and F3). -/
def Template.Completes (i : Instr) : Template → List Byte → Prop
  | .op0 j, [] => j = i
  | .op8 f, [b] => f b = i
  | .op16 f, [l, h] => f (wordOf h l) = i
  | _, _ => False

/-- The decoder reads i exactly where the bytes are an opcode byte with a template, the operand bytes that complete it
to i, and the rest. -/
theorem decode_eq_ok_iff {bs rest : List Byte} {i : Instr} :
    decode bs = .ok i rest ↔
      ∃ op t os, bs = op :: (os ++ rest) ∧ opcodeTemplate op = some t ∧ t.Completes i os := by
  constructor
  · intro h
    obtain _ | ⟨op, bs⟩ := bs
    · simp [decode] at h
    cases ht : opcodeTemplate op with
    | none => simp [decode, ht] at h
    | some t =>
      refine ⟨op, t, ?_⟩
      cases t with
      | op0 j =>
        obtain ⟨rfl, rfl⟩ : _ ∧ _ := by simpa [decode, ht] using h
        exact ⟨[], rfl, ht, rfl⟩
      | op8 f =>
        obtain _ | ⟨b, bs⟩ := bs
        · simp [decode, ht] at h
        · obtain ⟨rfl, rfl⟩ : _ ∧ _ := by simpa [decode, ht] using h
          exact ⟨[b], rfl, ht, rfl⟩
      | op16 f =>
        obtain _ | ⟨lo, _ | ⟨hi, bs⟩⟩ := bs
        · simp [decode, ht] at h
        · simp [decode, ht] at h
        · obtain ⟨rfl, rfl⟩ : _ ∧ _ := by simpa [decode, ht] using h
          exact ⟨[lo, hi], rfl, ht, rfl⟩
  · rintro ⟨op, t, os, rfl, ht, hc⟩
    unfold Template.Completes at hc
    split at hc
    · simp [decode, ht, hc]
    · simp [decode, ht, hc]
    · simp [decode, ht, hc]
    · exact hc.elim

theorem decode_eq_unknownOpcode_iff {op : Byte} {rest : List Byte} :
    decode (op :: rest) = .unknownOpcode op ↔ opcodeTemplate op = none := by
  cases ht : opcodeTemplate op with
  | none => simp [decode, ht]
  | some t => rcases t with j | f | f <;> rcases rest with _ | ⟨_, _ | ⟨_, _⟩⟩ <;> simp [decode, ht]

/-! ### The opcode map against the encoder -/

/-- What the template gives for any operand is encoded with the opcode byte op. -/
def Template.EncodesAs (op : Byte) : Template → Prop
  | .op0 i => encode i = [op]
  | .op8 f => ∀ b, encode (f b) = [op, b]
  | .op16 f => ∀ w, encode (f w) = [op, loByte w, hiByte w]

/-- An instruction completes the template its opcode byte stands for by its own operand bytes (30_encoding R109, R110).
-/
theorem opcodeTemplate_opcode (i : Instr) :
    ∃ t, opcodeTemplate i.opcode = some t ∧ t.Completes i i.operand.bytes := by
  cases i
  all_goals
    dsimp only [Instr.opcode]
    refine ⟨_, rfl, ?_⟩
    simp [Template.Completes, Instr.operand, Instr.form, Operand.bytes]

/-- A template found is the entry of its opcode byte. -/
theorem mem_of_findTemplate {rows : List (Byte × Template)} {op : Byte} {t : Template}
    (h : findTemplate rows op = some t) : (op, t) ∈ rows := by
  induction rows with
  | nil => simp [findTemplate] at h
  | cons e rest ih =>
    obtain ⟨b, u⟩ := e
    by_cases hb : b = op
    · obtain rfl : u = t := by simpa [findTemplate, hb] using h
      simp [hb]
    · exact List.mem_cons_of_mem _ (ih (by simpa [findTemplate, hb] using h))

/-- Every entry of the opcode map agrees with the encoder (30_encoding R109, R110). -/
theorem opcodeRow_encodesAs (n : Nat) : ∀ e ∈ opcodeRow n, e.2.EncodesAs e.1 := by
  unfold opcodeRow
  split
  all_goals
    simp only [opcodeRow0, opcodeRow1, opcodeRow2, opcodeRow3, opcodeRow4, opcodeRow5, opcodeRow6, opcodeRow7,
      opcodeRow8, opcodeRow9, opcodeRowA, opcodeRowB, opcodeRowC, opcodeRowD, opcodeRowE, opcodeRowF,
      List.forall_mem_cons, List.not_mem_nil, false_imp_iff, implies_true, and_true, Template.EncodesAs]
  all_goals
    and_intros <;> intros <;> rfl

theorem opcodeTemplate_encodesAs {op : Byte} {t : Template} (h : opcodeTemplate op = some t) : t.EncodesAs op :=
  opcodeRow_encodesAs _ _ (mem_of_findTemplate h)

/-- The bytes that complete a template are the operand bytes the encoder writes. -/
theorem Template.EncodesAs.encode_eq {op : Byte} {t : Template} {os : List Byte} {i : Instr} (h : t.EncodesAs op)
    (hc : t.Completes i os) : encode i = op :: os := by
  unfold Template.Completes at hc
  split at hc
  · exact hc ▸ h
  · exact hc ▸ h _
  · rw [← hc, h, loByte_wordOf, hiByte_wordOf]
  · exact hc.elim

/-! ### The two round trips -/

/-- Settles O1: the instruction completes its opcode's template by its operand bytes. -/
theorem decodeEncodeRoundTrip : Obligations.DecodeEncodeRoundTrip := by
  intro i rest _
  obtain ⟨t, ht, hc⟩ := opcodeTemplate_opcode i
  exact decode_eq_ok_iff.2 ⟨i.opcode, t, i.operand.bytes, rfl, ht, hc⟩

/-- Settles O2: every entry of the opcode map encodes back to its opcode byte and the operand bytes read. -/
theorem encodeDecodeRoundTrip : Obligations.EncodeDecodeRoundTrip := by
  intro bs rest i h
  obtain ⟨op, t, os, rfl, ht, hc⟩ := decode_eq_ok_iff.1 h
  refine ⟨?_, Machine.instr_wellFormed i⟩
  rw [(opcodeTemplate_encodesAs ht).encode_eq hc, List.cons_append]

/-! ### The unassigned bytes -/

/-- Going through the 256 bytes in order, those without a template are the list of 30_encoding R111. -/
theorem unassignedBytes_eq_filter :
    Machine.unassignedBytes =
      ((List.range 256).map (BitVec.ofNat 8)).filter fun op => (opcodeTemplate op).isNone := by
  decide

theorem opcodeTemplate_eq_none_iff (op : Byte) : opcodeTemplate op = none ↔ op ∈ Machine.unassignedBytes := by
  have hop : op ∈ (List.range 256).map (BitVec.ofNat 8) :=
    List.mem_map.2 ⟨op.toNat, List.mem_range.2 op.isLt, by simp⟩
  rw [unassignedBytes_eq_filter, List.mem_filter, Option.isNone_iff_eq_none, and_iff_right hop]

/-- Settles O3: the decoder rejects a byte where the opcode map has no entry, and those bytes are the listed ones. -/
theorem decoderRejectsExactlyTheUnassignedBytes : Obligations.DecoderRejectsExactlyTheUnassignedBytes :=
  fun op _ => decode_eq_unknownOpcode_iff.trans (opcodeTemplate_eq_none_iff op)

/-! ### What the opcode byte settles -/

theorem Operand.length_bytes (op : Operand) : op.bytes.length = op.mode.size := by
  cases op <;> rfl

theorem length_encode (i : Instr) : (encode i).length = 1 + i.mode.size := by
  rw [encode, List.length_cons, Operand.length_bytes, Nat.add_comm, Instr.mode]

/-- The mnemonic and mode of the instruction decoded from the opcode byte with zero operand bytes. -/
def opcodeForm (op : Byte) : Option (Mnemonic × Mode) :=
  match decode [op, 0, 0] with
  | .ok i _ => some (i.mnemonic, i.mode)
  | _ => none

/-- An instruction's mnemonic and mode are those of its opcode byte, whatever its operand (30_encoding R102). -/
theorem opcodeForm_opcode (i : Instr) : opcodeForm i.opcode = some (i.mnemonic, i.mode) := by
  cases i <;> dsimp only [Instr.opcode] <;> rfl

/-- Settles O5: the length by the mode's size, the mnemonic and mode by the opcode byte. -/
theorem opcodeSelectsFormAndLength : Obligations.OpcodeSelectsFormAndLength := by
  constructor
  · intro i
    have hlen {modes : List Mode} {n : Nat} (hn : ∀ m ∈ modes, 1 + m.size = n) (hm : i.mode ∈ modes) :
        (encode i).length = n := (length_encode i).trans (hn _ hm)
    exact ⟨length_encode i, rfl, hlen (by decide), hlen (by decide), hlen (by decide)⟩
  · intro i j h
    have hform : (i.mnemonic, i.mode) = (j.mnemonic, j.mode) :=
      Option.some.inj (by rw [← opcodeForm_opcode, ← opcodeForm_opcode, h])
    exact Prod.mk.inj hform

/-- Settles O4: each word is evaluated. -/
theorem writtenWordsDecode : Obligations.WrittenWordsDecode :=
  ⟨rfl, rfl, rfl, rfl, rfl, rfl, rfl, rfl, rfl, rfl, rfl, rfl, rfl⟩

end Sys2Proof

/-! PROOFS. The statements of 40_step_and_addressing: which accesses an instruction makes, that nothing refuses, that a
step runs the decoded instruction, how each mode resolves, reads and writes, the adder's overflow, and what the pushing
instructions leave alone. -/

namespace Sys2Proof

/-- The modes with no pointer in memory (40 R134 to R143). -/
def Mode.direct (d : Mode) : Bool := decide (d ∉ [Mode.indirect, .indexedIndirect, .indirectIndexed])

end Sys2Proof

namespace Sys2Proof.Machine

/-! ### The accesses of each family and of every instruction -/

theorem pointerReads_of_direct {op : Operand} (hop : op.mode.direct = true) (s : State) : s.pointerReads op = [] := by
  cases op
  case indirect | indexedIndirect | indirectIndexed => simp [Mode.direct, Operand.mode] at hop
  all_goals rfl

/-- An operation whose operand has no pointer makes only the accesses of its rule. -/
theorem Performs.of_direct {op : Operand} (hop : op.mode.direct = true) {s : State} {l : List (AccessKind × Addr)}
    {r : StepResult} (h : Performs s l id r) : Performs s (s.pointerReads op ++ l) id r := by
  rw [pointerReads_of_direct hop, List.nil_append]
  exact h

/-- Register writes at the end of an operation make no access. -/
theorem Performs.of_append_nil {β : Type} {s : State} {l : List (AccessKind × Addr)} {st : β → State}
    {r : Host.Outcome β Fault Refusal} (h : Performs s (l ++ []) st r) : Performs s l st r := by
  rwa [List.append_nil] at h

theorem Place.accesses_read_write (p : Place) :
    p.accesses [.read, .write] = p.accesses [.read] ++ p.accesses [.write] := by
  cases p <;> rfl

theorem readOperand_performs {op : Operand} (hop : op.mode.readable = true) (s : State) :
    Performs s (s.pointerReads op ++ s.operandAccesses op [.read]) Prod.snd (readOperand op s) :=
  (resolve_performs op s).bindValue fun _ s1 h =>
    operandAccesses_of_resolve h _ ▸ readPlace_performs (resolve_readable hop h) s1

theorem resolveAddress_performs {op : Operand} (hop : op.mode.addressed = true) (s : State) :
    Performs s (s.pointerReads op) Prod.snd (resolveAddress op s) :=
  .of_append_nil <| (resolve_performs op s).bindValue fun p s1 h => by
    cases p with
    | nothing => simp [Mode.addressed, (mode_of_resolve h).1 rfl] at hop
    | accumulator => simp [Mode.addressed, resolve_accumulator h] at hop
    | constant | memory | target => exact performs_next ⟨rfl, rfl⟩

/-- An instruction that reads its operand and then only writes registers. -/
theorem readThen_performs {op : Operand} (hop : op.mode.readable = true) {g : Byte → State → State}
    (hg : ∀ m s, (g m s).mounts = s.mounts ∧ (g m s).log = s.log) (s : State) :
    Performs s (s.pointerReads op ++ s.operandAccesses op [.read]) id
      (bindValue (readOperand op s) fun m s1 => .next (g m s1)) :=
  .of_append_nil <| (readOperand_performs hop s).bindValue fun m s1 _ => performs_next (hg m s1)

/-- The write step of a mode and register writes after it. -/
theorem writeThen_performs {op : Operand} {s s0 s1 : State} {p : Place} (hop : op.mode.writable = true)
    (h : resolve op s0 = .next (p, s1)) (v : Byte) {g : State → State}
    (hg : ∀ s, (g s).mounts = s.mounts ∧ (g s).log = s.log) :
    Performs s (p.accesses [.write]) id (bindState (writePlace p v s) fun s3 => .next (g s3)) :=
  .of_append_nil <| (writePlace_performs (resolve_writable hop h) v s).bindState fun s3 _ => performs_next (hg s3)

theorem storeFrom_performs (reg : State → Byte) {op : Operand} (hop : op.mode.writable = true) (s : State) :
    Performs s (s.pointerReads op ++ s.operandAccesses op [.write]) id (storeFrom reg op s) :=
  (resolve_performs op s).bindValue fun _ _ h =>
    operandAccesses_of_resolve h _ ▸ writeThen_performs hop h _ fun _ => ⟨rfl, rfl⟩

/-- The read and the write step of a mode, and register writes after them. -/
theorem readWriteThen_performs {op : Operand} {s s0 s1 : State} {p : Place} (hop : op.mode.writable = true)
    (h : resolve op s0 = .next (p, s1)) {v : Byte → State → Byte} {g : Byte → State → State → State}
    (hg : ∀ m s2 s3, (g m s2 s3).mounts = s3.mounts ∧ (g m s2 s3).log = s3.log) :
    Performs s (p.accesses [.read, .write]) id
      (bindValue (readPlace p s) fun m s2 => bindState (writePlace p (v m s2) s2) fun s3 => .next (g m s2 s3)) := by
  rw [Place.accesses_read_write]
  exact (readPlace_performs (resolve_readable (readable_of_writable hop) h) s).bindValue fun m s2 _ =>
    writeThen_performs hop h _ (hg m s2)

theorem modifyWith_performs (unit : Byte → Byte) {op : Operand} (hop : op.mode.writable = true) (s : State) :
    Performs s (s.pointerReads op ++ s.operandAccesses op [.read, .write]) id (modifyWith unit op s) :=
  (resolve_performs op s).bindValue fun _ _ h =>
    operandAccesses_of_resolve h _ ▸ readWriteThen_performs hop h fun _ _ _ => ⟨rfl, rfl⟩

theorem shiftWith_performs (unit : Byte → Bool → Byte × Bool) {op : Operand} (hop : op.mode.writable = true)
    (s : State) :
    Performs s (s.pointerReads op ++ s.operandAccesses op [.read, .write]) id (shiftWith unit op s) :=
  (resolve_performs op s).bindValue fun _ _ h =>
    operandAccesses_of_resolve h _ ▸ readWriteThen_performs hop h fun _ _ _ => ⟨rfl, rfl⟩

theorem jumpTo_performs {op : Operand} (hop : op.mode.addressed = true) (s : State) :
    Performs s (s.pointerReads op ++ []) id (jumpTo op s) :=
  (resolveAddress_performs hop s).bindValue fun _ _ _ => performs_next ⟨rfl, rfl⟩

theorem branchIf_performs (cond : Flags → Bool) {op : Operand} (hop : op.mode.addressed = true) (s : State) :
    Performs s (s.pointerReads op ++ []) id (branchIf cond op s) :=
  (resolveAddress_performs hop s).bindValue fun _ _ _ => by split <;> exact performs_next ⟨rfl, rfl⟩

/-! The stack slots, as the rules of files 45 to 47 count them from SP. -/

theorem stackSlot_zero (s : State) : s.stackSlot 0 = stackAddr s.sp := by
  rw [← BitVec.add_zero s.sp]; rfl

theorem stackSlot_neg_one (s : State) : s.stackSlot (-1) = stackAddr (s.sp - 1) := by
  rw [BitVec.sub_eq_add_neg]; rfl

theorem stackSlot_neg_two (s : State) : s.stackSlot (-2) = stackAddr (s.sp - 1 - 1) := by
  rw [BitVec.sub_eq_add_neg, BitVec.sub_eq_add_neg, BitVec.add_assoc]; rfl

theorem stackSlot_one (s : State) : s.stackSlot 1 = stackAddr (s.sp + 1) := rfl

theorem stackSlot_two (s : State) : s.stackSlot 2 = stackAddr (s.sp + 1 + 1) := by
  rw [BitVec.add_assoc]; rfl

theorem stackSlot_three (s : State) : s.stackSlot 3 = stackAddr (s.sp + 1 + 1 + 1) := by
  rw [BitVec.add_assoc, BitVec.add_assoc]; rfl

theorem pushThen_performs (v : Byte) (s : State) :
    Performs s [(.write, s.stackSlot 0)] id (bindState (push v s) fun s1 => .next (advance .implied s1)) := by
  rw [stackSlot_zero]
  exact (push_performs v s).bindState (m := []) fun _ _ => performs_next ⟨rfl, rfl⟩

/-- A pull, then register writes. -/
theorem pullThen_performs {g : Byte → State → State} (hg : ∀ v s, (g v s).mounts = s.mounts ∧ (g v s).log = s.log)
    (s : State) : Performs s [(.read, s.stackSlot 1)] id (bindValue (pull s) fun v s1 => .next (g v s1)) :=
  (pull_performs s).bindValue (m := []) fun v s1 _ => performs_next (hg v s1)

theorem jsr_performs {op : Operand} (hop : op.mode.addressed = true) (s : State) :
    Performs s (s.pointerReads op ++ [(.write, s.stackSlot 0), (.write, s.stackSlot (-1))]) id
      (formMeaning .jsr op s) := by
  rw [stackSlot_zero, stackSlot_neg_one]
  refine (resolveAddress_performs hop s).bindValue fun _ s1 h => ?_
  rw [← (resolveAddress_readsOnly h).sp]
  exact (pushWord_performs _ s1).bindState (m := []) fun _ _ => performs_next ⟨rfl, rfl⟩

theorem execRts_performs (s : State) :
    Performs s [(.read, s.stackSlot 1), (.read, s.stackSlot 2)] id (execRts s) := by
  rw [stackSlot_one, stackSlot_two]
  exact (pullWord_performs s).bindValue (m := []) fun _ _ _ => performs_next ⟨rfl, rfl⟩

/-- Every row of the table makes the accesses of its rule (40 R164; 20_memory R69, R72). -/
theorem exec_performs (i : Instr) (s : State) : Performs s (accessesOf i s) id (exec i s) := by
  have hl : legalForm (i.mnemonic, i.operand) = true := instr_wellFormed i
  rw [exec_eq_formMeaning, accessesOf]
  generalize i.mnemonic = m at *
  generalize i.operand = op at *
  cases m
  case cmp | cpx | cpy | adc | sbc | and | ora | eor | bit | lda | ldx | ldy =>
    refine readThen_performs (mode_of_legalForm (by decide) hl) ?_ s
    exact fun _ _ => ⟨rfl, rfl⟩
  case sta | stx | sty => exact storeFrom_performs _ (mode_of_legalForm (by decide) hl) s
  case inc | dec => exact modifyWith_performs _ (mode_of_legalForm (by decide) hl) s
  case asl | lsr | rol | ror => exact shiftWith_performs _ (mode_of_legalForm (by decide) hl) s
  case jmp => exact jumpTo_performs (mode_of_legalForm (by decide) hl) s
  case bcc | bcs | beq | bne | bmi | bpl | bvc | bvs =>
    unfold formMeaning
    exact branchIf_performs _ (mode_of_legalForm (by decide) hl) s
  case jsr => exact jsr_performs (mode_of_legalForm (by decide) hl) s
  all_goals refine .of_direct (mode_of_legalForm (by decide) hl) ?_
  case pha | php => exact pushThen_performs _ s
  case pla | plp =>
    refine pullThen_performs ?_ s
    exact fun _ _ => ⟨rfl, rfl⟩
  case rts => exact execRts_performs s
  case rti =>
    rw [stackSlot_one, stackSlot_two, stackSlot_three]
    exact returnFromBreak_performs s
  case brk =>
    rw [stackSlot_zero, stackSlot_neg_one, stackSlot_neg_two]
    exact takeBreak_performs s
  case tax | tay | txa | tya | tsx | txs | inx | iny | dex | dey | clc | sec | cld | sed | cli | sei | clv | nop =>
    exact performs_next ⟨rfl, rfl⟩

/-- Settles O57: an instruction performs the list of its rule, and so completes exactly where all of it is mapped. -/
theorem accessesAreExactlyTheRules : Obligations.AccessesAreExactlyTheRules := fun i s =>
  ⟨fun _ h => ((exec_performs i s).of_next h).2.2,
    fun ⟨_, h⟩ => ((exec_performs i s).of_next h).1,
    fun h => let ⟨t, ht, _⟩ := (exec_performs i s).completes h; ⟨t, ht⟩⟩

/-! ### Nothing refuses -/

/-- A sequence refuses in its first part or after it. -/
theorem bindValue_eq_refused {α β : Type} {r : Result α} {f : α → State → Host.Outcome β Fault Refusal} {e : Refusal} :
    bindValue r f = .refused e ↔ r = .refused e ∨ ∃ v s1, r = .next (v, s1) ∧ f v s1 = .refused e := by
  rcases r with ⟨v, s⟩ | e | e <;> simp

theorem Behaves.not_refused {β : Type} {s : State} {st : β → State} {r : Host.Outcome β Fault Refusal}
    (h : Behaves s st r) (e : Refusal) : r ≠ .refused e := by
  rintro rfl
  exact h

theorem exec_not_refused (i : Instr) (s : State) (e : Refusal) : exec i s ≠ .refused e :=
  (exec_behaves i s).not_refused e

/-- The opcode's read, the check of the byte and the operand's reads answer or fault. -/
theorem fetch_not_refused (s : State) (e : Refusal) : fetch s ≠ .refused e := by
  intro h
  obtain h | ⟨op, s1, _, h⟩ := bindValue_eq_refused.1 h
  · exact memRead_not_refused _ _ _ h
  · cases ht : opcodeTemplate op with
    | none => simp [ht] at h
    | some t =>
      cases t with
      | op0 i => simp [ht] at h
      | op8 f =>
        obtain h | ⟨_, _, _, h⟩ := bindValue_eq_refused.1 (by simpa only [ht] using h)
        · exact memRead_not_refused _ _ _ h
        · cases h
      | op16 f =>
        obtain h | ⟨_, _, _, h⟩ := bindValue_eq_refused.1 (by simpa only [ht] using h)
        · exact (readPair_behaves _ _ _).not_refused e h
        · cases h

/-- Settles O10: neither the fetch nor an instruction refuses. -/
theorem stepNeverRefuses : Obligations.StepNeverRefuses := by
  refine ⟨exec_not_refused, fun s e h => ?_⟩
  unfold step at h
  cases hs : s.status with
  | faulted f => simp [hs] at h
  | running =>
    obtain h | ⟨i, s1, _, h⟩ := bindValue_eq_refused.1 (by simpa only [hs] using h)
    · exact fetch_not_refused s e h
    · exact exec_not_refused i s1 e h

/-! ### A step is the decoded instruction -/

/-- Where the stores hold an instruction's bytes, the fetch finds it, having read exactly them (40 R130, R132). -/
theorem fetch_of_holds {s : State} {bs : List Byte} {i : Instr} (hd : decode bs = .ok i []) (hh : s.holds s.pc bs) :
    fetch s = .next (i, { s with pc := s.pc + 1, log := (readEvents s.pc bs).reverse ++ s.log }) := by
  obtain ⟨op, t, os, rfl, ht, hc⟩ := decode_eq_ok_iff.1 hd
  rw [List.append_nil] at hh ⊢
  obtain ⟨hop, hos⟩ := hh
  have hpeek : ∀ a, ((s.record ⟨.read, s.pc, op⟩).setPc (s.pc + 1)).peek a = s.peek a := State.peek_congr rfl rfl rfl
  rw [fetch, memRead_of_peek hop, bindValue_next]
  unfold Template.Completes at hc
  split at hc
  case h_1 =>
    simp only [ht, hc]
    rfl
  case h_2 f b =>
    obtain ⟨hb, _⟩ := hos
    simp only [ht, State.setPc_pc, memRead_of_peek ((hpeek _).trans hb), bindValue_next, hc]
    rfl
  case h_3 f l h =>
    obtain ⟨hl, hhi, _⟩ := hos
    simp only [ht, readWord, State.setPc_pc, readPair_of_peek ((hpeek _).trans hl) ((hpeek _).trans hhi),
      bindValue_next, hc]
    rfl
  case h_4 => exact hc.elim

/-- Settles O6: the fetch finds the decoded instruction, and the step runs it. -/
theorem stepRunsDecodedInstruction : Obligations.StepRunsDecodedInstruction := by
  intro s bs i hs hd _ hh
  unfold step
  simp only [hs, fetch_of_holds hd hh, bindValue_next]

/-! ### How each mode resolves, reads and writes -/

/-- Settles O19: one row of the tables of 40 R147 and R148 for each place. -/
theorem modeReadAndWriteSteps : Obligations.ModeReadAndWriteSteps := fun _ _ _ _ _ =>
  ⟨rfl, rfl, rfl, rfl, rfl, rfl, rfl, rfl, rfl, rfl⟩

/-- Indexing in page zero wraps in it (40 R138, R139). -/
theorem zext16_add (z i : Byte) : zext16 (z + i) = BitVec.ofNat 16 ((z.toNat + i.toNat) % 256) := by
  rw [zext16_eq_ofNat, BitVec.toNat_add]

/-- Indexing an address wraps modulo 65536 (40 R142, R143). -/
theorem add_zext16 (a : Addr) (i : Byte) : a + zext16 i = BitVec.ofNat 16 (a.toNat + i.toNat) := by
  apply BitVec.eq_of_toNat_eq
  rw [BitVec.toNat_add, zext16_toNat, BitVec.toNat_ofNat]

/-- The target of a branch: the address after the operand byte plus the displacement (40 R140). -/
theorem branchTarget_eq (pc : Addr) (d : Byte) :
    pc + 1 + sext16 d =
      BitVec.ofNat 16 (pc.toNat + 1 + (if d.toNat < 128 then d.toNat else d.toNat + 0xFF00)) := by
  apply BitVec.eq_of_toNat_eq
  rw [BitVec.toNat_add, sext16_toNat, BitVec.toNat_add, BitVec.toNat_ofNat, Nat.mod_add_mod]
  rfl

/-- Settles O17: each mode by its equation, its sum in natural numbers. -/
theorem directModesResolve : Obligations.DirectModesResolve := by
  intro s z d v a
  rw [← zext16_add, ← zext16_add, ← add_zext16, ← add_zext16, ← branchTarget_eq, ← zext16_eq_ofNat]
  exact ⟨rfl, rfl, rfl, rfl, rfl, rfl, rfl, rfl, rfl, rfl⟩

/-- The pointer's high byte lies at z + 1, in page zero only under ZP_POINTER_WRAP (40 R145, R146; 70 R458). -/
theorem pointerHigh_eq (p : Params) (z : Byte) :
    pointerHigh p z = BitVec.ofNat 16 (if p.zpPointerWrap then (z.toNat + 1) % 256 else z.toNat + 1) := by
  unfold pointerHigh
  split
  · exact zext16_add z 1
  · rw [zext16_eq_ofNat, BitVec.ofNat_add]
    rfl

/-- Settles O18: the two reads of the pointer, in its order, and the word of their bytes. -/
theorem zeroPagePointersResolve : Obligations.ZeroPagePointersResolve := by
  intro s s1 s2 z lo hi next
  have hnext : ∀ n : Byte, next n.toNat = pointerHigh s.params n := fun n => (pointerHigh_eq s.params n).symm
  refine ⟨fun h1 h2 => ?_, fun h1 h2 => ?_⟩
  · rw [← zext16_add] at h1
    rw [← BitVec.toNat_add, hnext] at h2
    rw [resolve, readPair, h1, bindValue_next, h2, bindValue_next, bindValue_next, wordOf_eq_ofNat]
  · rw [← zext16_eq_ofNat] at h1
    rw [hnext] at h2
    have hy : s2.y = s.y := ((memRead_readsOnly h1).trans (memRead_readsOnly h2)).y
    rw [resolve, readPair, h1, bindValue_next, h2, bindValue_next, bindValue_next, hy, add_zext16, wordOf_toNat]

/-! ### The adder's overflow -/

/-- The test of the overflow rules (40 R152, R153) as it stands on the sign bits. -/
theorem and_signBit_ne_zero (x : Byte) : ((x &&& 0x80) != 0) = x.getLsbD 7 := by revert x; decide

theorem toInt_eq_toNat (b : Byte) : b.toInt = if 128 ≤ b.toNat then (b.toNat : Int) - 256 else b.toNat := by
  rw [BitVec.toInt_eq_toNat_cond]
  split <;> split <;> omega

/-- The borrow's difference is the sum with the complement, less 256: so the ninth bit says that there is no borrow. -/
theorem sub_eq_add_complement (a b : Byte) (c : Bool) :
    (a.toNat : Int) - b.toNat - (1 - c.toNat) = ((a.toNat + (~~~b).toNat + c.toNat : Nat) : Int) - 256 := by
  have hb := b.isLt
  rw [BitVec.toNat_not]
  omega

/-- Settles O27: the difference and the sum agree modulo 256; the two overflow tests agree bit by bit. -/
theorem subtractIsAddOfComplement : Obligations.SubtractIsAddOfComplement := by
  intro a b c
  have hvalue (t : Nat) : BitVec.ofInt 8 ((t : Int) - 256) = BitVec.ofNat 8 t := by
    apply BitVec.eq_of_toNat_eq
    rw [BitVec.toNat_ofInt, BitVec.toNat_ofNat]
    omega
  have hcarry (t : Nat) : (0 ≤ (t : Int) - 256) ↔ 256 ≤ t := by omega
  have hoverflow (r : Byte) : (a ^^^ b) &&& (a ^^^ r) &&& 0x80 = (a ^^^ r) &&& (~~~b ^^^ r) &&& 0x80 := by
    ext k hk
    simp only [BitVec.getElem_and, BitVec.getElem_xor, BitVec.getElem_not]
    cases a[k] <;> cases b[k] <;> cases r[k] <;> rfl
  simp only [subC, addC, sub_eq_add_complement, hvalue, hcarry, hoverflow]

/-- The overflow of the addition on the sign bits: the sum's differs from both operands' (40 R152). -/
theorem addC_overflow_eq (a b : Byte) (c : Bool) :
    (addC a b c).overflow =
      ((decide (128 ≤ a.toNat) ^^ decide (128 ≤ (a.toNat + b.toNat + c.toNat) % 256)) &&
        (decide (128 ≤ b.toNat) ^^ decide (128 ≤ (a.toNat + b.toNat + c.toNat) % 256))) := by
  simp only [addC, and_signBit_ne_zero, BitVec.getLsbD_and, BitVec.getLsbD_xor]
  rw [getLsbD_seven, getLsbD_seven, getLsbD_seven, BitVec.toNat_ofNat]

theorem addC_overflow_iff (a b : Byte) (c : Bool) :
    (addC a b c).overflow = true ↔
      a.toInt + b.toInt + (if c then 1 else 0) < -128 ∨ 127 < a.toInt + b.toInt + (if c then 1 else 0) := by
  have ha := a.isLt
  have hb := b.isLt
  have hc : (if c then 1 else 0 : Int) = c.toNat := by cases c <;> rfl
  have hc1 := c.toNat_le
  rw [addC_overflow_eq, toInt_eq_toNat, toInt_eq_toNat, hc]
  simp only [Bool.and_eq_true, Bool.xor_iff_ne, ne_eq, decide_eq_decide]
  by_cases h1 : 128 ≤ a.toNat <;> by_cases h2 : 128 ≤ b.toNat
  all_goals
    simp only [h1, h2, if_true, if_false, true_iff, false_iff]
    omega

/-- Settles O26: the addition by its sign bits, the subtraction as the addition of the complement. -/
theorem overflowIsSignedOverflow : Obligations.OverflowIsSignedOverflow := by
  refine fun a b c => ⟨addC_overflow_iff a b c, ?_⟩
  have hnot : (~~~b).toInt = -b.toInt - 1 := by
    have hb := b.isLt
    rw [toInt_eq_toNat, toInt_eq_toNat, BitVec.toNat_not]
    split <;> split <;> omega
  rw [subtractIsAddOfComplement, addC_overflow_iff, hnot]
  cases c <;> simp <;> omega

/-! ### What the pushing instructions leave alone -/

/-- t comes from s by reads and n pushes: SP fell by n, and a byte in no slot of a push is what it was (40 R160). -/
structure Pushed (n : Nat) (s t : State) : Prop where
  stack : StackOnly s t
  sp : t.sp = s.sp - BitVec.ofNat 8 n
  keeps : ∀ b, (∀ k < n, s.cellAt b ≠ s.cellAt (stackAddr (s.sp - BitVec.ofNat 8 k))) → t.peek b = s.peek b

theorem StackOnly.cellAt {s t : State} (h : StackOnly s t) (b : Addr) : t.cellAt b = s.cellAt b := by rw [h]; rfl

theorem ReadsOnly.pushed {s t : State} (h : ReadsOnly s t) : Pushed 0 s t where
  stack := h.busOnly.stackOnly
  sp := by rw [h.sp]; exact (BitVec.sub_zero s.sp).symm
  keeps b _ := h.peek b

/-- One push more. -/
theorem Pushed.push {n : Nat} {s t u : State} {v : Byte} (h : Pushed n s t) (k : push v t = .next u) :
    Pushed (n + 1) s u := by
  obtain ⟨w, hw, hu⟩ := push_next k
  refine ⟨h.stack.trans (push_stackOnly k), ?_, fun b hb => ?_⟩
  · rw [push_sp k, h.sp, BitVec.sub_sub, BitVec.ofNat_add]
    rfl
  · have hslot : t.cellAt b ≠ t.cellAt (stackAddr t.sp) := by
      rw [h.stack.cellAt, h.stack.cellAt, h.sp]
      exact hb n (Nat.lt_succ_self n)
    calc
      u.peek b = w.peek b := by rw [hu]; rfl
      _ = t.peek b := (memWrite_peek hw).2 hslot
      _ = s.peek b := h.keeps b fun k hk => hb k (Nat.lt_succ_of_lt hk)

theorem Pushed.pushWord {n : Nat} {s t u : State} {w : Addr} (h : Pushed n s t) (k : pushWord w t = .next u) :
    Pushed (n + 2) s u := by
  obtain ⟨t1, h1, h2⟩ := pushWord_next k
  exact (h.push h1).push h2

/-- Settles O52: each instruction is its pushes, then reads and register writes. -/
theorem stackInstructionsTouchOnlyTheirSlots : Obligations.StackInstructionsTouchOnlyTheirSlots := by
  intro i s t n hi h
  have start := (ReadsOnly.refl s).pushed
  obtain ⟨hm, rfl⟩ | ⟨hm, rfl⟩ | ⟨hm, rfl⟩ := hi
  · have hne : i.mnemonic ≠ .brk := by rcases hm with hm | hm <;> simp [hm]
    obtain ⟨v, h⟩ : ∃ v, bindState (push v s) (fun s1 => .next (advance .implied s1)) = (.next t : StepResult) := by
      rcases hm with hm | hm <;> exact ⟨_, exec_of_mnemonic hm s ▸ h⟩
    obtain ⟨u, h1, h⟩ := bindState_eq_next.1 h
    obtain rfl := Host.Outcome.next.inj h
    have hu := start.push h1
    exact ⟨hu.keeps, hu.sp, hu.stack.a, hu.stack.x, hu.stack.y, by simp [hne, hu.stack.flags]⟩
  · rw [exec_of_mnemonic hm] at h
    obtain ⟨ea, s1, h1, h⟩ := bindValue_eq_next.1 h
    obtain ⟨u, h2, h⟩ := bindState_eq_next.1 h
    obtain rfl := Host.Outcome.next.inj h
    have hu := (resolveAddress_readsOnly h1).pushed.pushWord h2
    exact ⟨hu.keeps, hu.sp, hu.stack.a, hu.stack.x, hu.stack.y, by simp [hm, hu.stack.flags]⟩
  · rw [exec_of_mnemonic hm] at h
    obtain ⟨s1, u, w, s3, h1, h2, h3, rfl⟩ := takeBreak_next h
    have hu := (start.pushWord h1).push h2
    have hr := readPair_readsOnly h3
    rw [State.maskOnBreak_eq] at hr
    refine ⟨fun b hb => (hr.peek b).trans (hu.keeps b hb), hr.sp.trans hu.sp, hr.a.trans hu.stack.a,
      hr.x.trans hu.stack.x, hr.y.trans hu.stack.y, ?_⟩
    have hparams : u.params = s.params := by rw [hu.stack]
    cases hb : s.params.brkSetsI <;> simp [hm, hr.flags, hu.stack.flags, hparams, hb]

end Sys2Proof.Machine

/-! PROOFS. The statements of 41_compare_arith: the outcomes of the compares and of the adder's instructions, with the
flags and the results in natural numbers. -/

namespace Sys2Proof.Machine

/-! ### The flags and the adder in natural numbers -/

theorem beq_eq_decide_toNat (x y : Byte) : (x == y) = decide (x.toNat = y.toNat) := by
  rw [Bool.beq_eq_decide_eq, decide_eq_decide, BitVec.toNat_inj]

/-- SetZN as the statements say it (40 R150). -/
theorem Flags.setZN_eq_withResult (f : Flags) (v : Byte) : f.setZN v = f.withResult v := by
  rw [setZN, beq_eq_decide_toNat, getLsbD_seven]; rfl

/-- Cmp by the difference modulo 256 (40 R154). -/
theorem Flags.compare_eq (f : Flags) (r m : Byte) :
    f.compare r m = { f with
      c := decide (m.toNat ≤ r.toNat), z := decide (r.toNat = m.toNat),
      n := decide (128 ≤ (r.toNat + 256 - m.toNat) % 256) } := by
  have hd : (r - m).toNat = (r.toNat + 256 - m.toNat) % 256 := by
    have := m.isLt
    rw [BitVec.toNat_sub]
    omega
  rw [compare, beq_eq_decide_toNat, getLsbD_seven, hd]

theorem Flags.ofAlu_eq (f : Flags) (r : AluResult) :
    f.ofAlu r = { f.withResult r.value with c := r.carry, v := r.overflow } := by
  rw [ofAlu, setZN_eq_withResult]

/-- SubC with the borrow moved to the other side: 256 is added before the subtraction (40 R153). -/
theorem subC_eq (a b : Byte) (c : Bool) :
    subC a b c =
      let borrow := b.toNat + (if c then 0 else 1)
      let r : Byte := BitVec.ofNat 8 (a.toNat + 256 - borrow)
      { value := r, carry := decide (borrow ≤ a.toNat), overflow := ((a ^^^ b) &&& (a ^^^ r) &&& 0x80) != 0 } := by
  have hb := b.isLt
  have hborrow : (1 - c.toNat : Int) = (if c then 0 else 1 : Nat) := by cases c <;> rfl
  have hle : (if c then 0 else 1 : Nat) ≤ 1 := by split <;> omega
  rw [subC, hborrow]
  generalize (if c then 0 else 1 : Nat) = k at hle
  have hvalue : BitVec.ofInt 8 ((a.toNat : Int) - b.toNat - k) = BitVec.ofNat 8 (a.toNat + 256 - (b.toNat + k)) := by
    apply BitVec.eq_of_toNat_eq
    rw [BitVec.toNat_ofInt, BitVec.toNat_ofNat]
    omega
  have hcarry : (0 ≤ (a.toNat : Int) - b.toNat - k) ↔ b.toNat + k ≤ a.toNat := by omega
  simp only [hvalue, hcarry]

/-! ### The outcomes -/

/-- The reads leave A, X and Y, so the register compared is the one before them. -/
theorem compareWith_of_readOperand {reg : State → Byte} {op : Operand} {s s1 : State} {m : Byte}
    (hreg : reg s1 = reg s) (h : readOperand op s = .next (m, s1)) :
    compareWith reg op s = .next { s1 with
      flags := s1.flags.compare (reg s) m, pc := s1.pc + BitVec.ofNat 16 op.mode.size } := by
  rw [compareWith, h, bindValue_next, hreg]; rfl

/-- The adder's operands are A and C from before the reads. -/
theorem addWith_of_readOperand (unit : Byte → Byte → Bool → AluResult) {op : Operand} {s s1 : State} {m : Byte}
    (h : readOperand op s = .next (m, s1)) :
    addWith unit op s = .next { s1 with
      a := (unit s.a m s.flags.c).value,
      flags := s1.flags.ofAlu (unit s.a m s.flags.c),
      pc := s1.pc + BitVec.ofNat 16 op.mode.size } := by
  have hr := readOperand_readsOnly h
  rw [addWith, h, bindValue_next, hr.a, hr.flags]; rfl

/-- Settles O23: each mnemonic compares its register, which the read of the operand leaves alone. -/
theorem comparesCompleteWithFlags : Obligations.ComparesCompleteWithFlags := by
  intro i s s1 m h
  have hr := readOperand_readsOnly h
  simp only [← Flags.compare_eq]
  exact ⟨fun hi => (exec_of_mnemonic hi s).trans (compareWith_of_readOperand hr.a h),
    fun hi => (exec_of_mnemonic hi s).trans (compareWith_of_readOperand hr.x h),
    fun hi => (exec_of_mnemonic hi s).trans (compareWith_of_readOperand hr.y h)⟩

/-- Settles O24: the adder's outcome with AddC's result; D is not among its inputs. -/
theorem adcCompletesWithResult : Obligations.AdcCompletesWithResult := by
  intro i s s1 m hi h
  rw [exec_of_mnemonic hi, formMeaning, addWith_of_readOperand addC h, Flags.ofAlu_eq, addC, Bool.toNat,
    Bool.cond_eq_ite]
  rfl

/-- Settles O25: the adder's outcome with SubC's result, by the borrow. -/
theorem sbcCompletesWithResult : Obligations.SbcCompletesWithResult := by
  intro i s s1 m hi h
  rw [exec_of_mnemonic hi, formMeaning, addWith_of_readOperand subC h, Flags.ofAlu_eq, subC_eq]
  rfl

end Sys2Proof.Machine

/-! PROOFS. The statements of 42_logical_bit: the outcomes of AND, ORA, EOR and BIT. -/

namespace Sys2Proof.Machine

/-- Bit 6 of a byte (00_scope R9). -/
theorem getLsbD_six (b : Byte) : b.getLsbD 6 = decide (64 ≤ b.toNat % 128) := by
  revert b; decide

/-- BIT's flags in natural numbers (42 R233). -/
theorem Flags.bitTest_eq (f : Flags) (a m : Byte) :
    f.bitTest a m = { f with
      z := decide ((a &&& m).toNat = 0), n := decide (128 ≤ m.toNat), v := decide (64 ≤ m.toNat % 128) } := by
  rw [bitTest, beq_eq_decide_toNat, getLsbD_seven, getLsbD_six]; rfl

/-- The logic unit's first operand is A from before the reads. -/
theorem logicWith_of_readOperand (unit : Byte → Byte → Byte) {op : Operand} {s s1 : State} {m : Byte}
    (h : readOperand op s = .next (m, s1)) :
    logicWith unit op s = .next { s1 with
      a := unit s.a m, flags := s1.flags.withResult (unit s.a m), pc := s1.pc + BitVec.ofNat 16 op.mode.size } := by
  rw [logicWith, h, bindValue_next, (readOperand_readsOnly h).a, ← Flags.setZN_eq_withResult]; rfl

/-- BIT tests A from before the reads. -/
theorem bitWith_of_readOperand {op : Operand} {s s1 : State} {m : Byte} (h : readOperand op s = .next (m, s1)) :
    bitWith op s = .next { s1 with
      flags := s1.flags.bitTest s.a m, pc := s1.pc + BitVec.ofNat 16 op.mode.size } := by
  rw [← (readOperand_readsOnly h).a, bitWith, h, bindValue_next]; rfl

/-- Settles O28: each mnemonic is the logic instruction over its unit. -/
theorem logicCompletesWithResult : Obligations.LogicCompletesWithResult := fun _ s _ _ h =>
  ⟨fun hi => (exec_of_mnemonic hi s).trans (logicWith_of_readOperand andUnit h),
    fun hi => (exec_of_mnemonic hi s).trans (logicWith_of_readOperand orUnit h),
    fun hi => (exec_of_mnemonic hi s).trans (logicWith_of_readOperand xorUnit h)⟩

/-- Settles O29: BIT's outcome, its flags in natural numbers. -/
theorem bitCompletesWithFlags : Obligations.BitCompletesWithFlags := by
  intro i s s1 m hi h
  rw [exec_of_mnemonic hi, formMeaning, bitWith_of_readOperand h, Flags.bitTest_eq]
  rfl

end Sys2Proof.Machine

/-! PROOFS. The statements of 43_load_store_transfer: the outcomes of the loads, the stores and the transfers, and what the
stores and the read-modify-writes leave alone. -/

namespace Sys2Proof.Machine

/-! ### The outcomes -/

/-- SetZN of the state as the statements say it (40 R150). -/
theorem State.setZN_eq_withResult (s : State) (v : Byte) : s.setZN v = { s with flags := s.flags.withResult v } := by
  rw [setZN, Flags.setZN_eq_withResult]; rfl

/-- A load sets its register, then Z and N, then PC. -/
theorem loadInto_of_readOperand (set : State → Byte → State) {op : Operand} {s s1 : State} {m : Byte}
    (h : readOperand op s = .next (m, s1)) :
    loadInto set op s = .next (advance op { set s1 m with flags := (set s1 m).flags.withResult m }) := by
  rw [loadInto, h, bindValue_next, State.setZN_eq_withResult]

/-- The reads of a pointer leave the register stored, and the write leaves PC. -/
theorem storeFrom_of_resolve {reg : State → Byte} {op : Operand} {s s1 t : State} {ea : Addr} (hreg : reg s1 = reg s)
    (h : resolve op s = .next (.memory ea, s1)) (hw : memWrite ea (reg s) s1 = .next t) :
    storeFrom reg op s = .next { t with pc := s.pc + BitVec.ofNat 16 op.mode.size } := by
  have hpc : t.pc = s.pc := by rw [(memWrite_next hw).1, (resolve_readsOnly h).pc]
  rw [storeFrom, h, bindValue_next, hreg, writePlace, hw, bindState_next, advance, hpc]; rfl

theorem transferZN_eq (reg : State → Byte) (set : State → Byte → State) (s : State) :
    transferZN reg set s = .next { set s (reg s) with flags := (set s (reg s)).flags.withResult (reg s) } := by
  rw [transferZN, advance_implied, State.setZN_eq_withResult]

/-- Settles O20: each mnemonic is the load into its register. -/
theorem loadsCompleteWithResult : Obligations.LoadsCompleteWithResult := fun _ s _ _ h =>
  ⟨fun hi => (exec_of_mnemonic hi s).trans (loadInto_of_readOperand State.setA h),
    fun hi => (exec_of_mnemonic hi s).trans (loadInto_of_readOperand State.setX h),
    fun hi => (exec_of_mnemonic hi s).trans (loadInto_of_readOperand State.setY h)⟩

/-- Settles O21: each mnemonic stores its register, which the reads of a pointer leave alone. -/
theorem storesCompleteWithResult : Obligations.StoresCompleteWithResult := fun _ s _ _ _ h =>
  have hr := resolve_readsOnly h
  ⟨fun hi hw => (exec_of_mnemonic hi s).trans (storeFrom_of_resolve hr.a h hw),
    fun hi hw => (exec_of_mnemonic hi s).trans (storeFrom_of_resolve hr.x h hw),
    fun hi hw => (exec_of_mnemonic hi s).trans (storeFrom_of_resolve hr.y h hw)⟩

/-- Settles O22: five copies with SetZN; TXS only writes SP. -/
theorem transfersCompleteWithResult : Obligations.TransfersCompleteWithResult := fun s =>
  ⟨transferZN_eq State.a State.setX s, transferZN_eq State.a State.setY s, transferZN_eq State.x State.setA s,
    transferZN_eq State.y State.setA s, transferZN_eq State.sp State.setX s,
    congrArg Host.Outcome.next (advance_implied (s.setSp s.x))⟩

/-! ### What the storing instructions leave alone -/

/-- t comes from s by reads, one write at ea, and then flags and PC. -/
def StoredAt (ea : Addr) (s t : State) : Prop :=
  ∃ u v w, ReadsOnly s u ∧ memWrite ea v u = .next w ∧ t = { w with flags := t.flags, pc := t.pc }

/-- Without RAM_MIRROR the place of an address in the byte list is the address (20_memory R73). -/
theorem State.cellAt_eq_some_toNat {s : State} {a : Addr} {k : Nat} (hp : s.params.ramMirror = false)
    (h : s.cellAt a = some k) : k = a.toNat := by
  cases hm : s.mountAt a with
  | none => simp [State.cellAt, hm] at h
  | some m =>
    have hle := (Mount.covers_iff.1 (State.mountAt_mem hm).2).1
    rw [State.cellAt_of_mount hm, Option.ite_none_left_eq_some, Option.some.injEq] at h
    rw [← h.2]
    simp [Mount.cell, Mount.offset, hp, hle]

section storedAt
variable {ea : Addr} {s t : State} (h : StoredAt ea s t)
include h

theorem StoredAt.registers : t.a = s.a ∧ t.x = s.x ∧ t.y = s.y ∧ t.sp = s.sp := by
  obtain ⟨u, v, w, hu, hw, ht⟩ := h
  have hb := hu.busOnly.trans (memWrite_busOnly hw)
  rw [ht]
  exact ⟨hb.stackOnly.a, hb.stackOnly.x, hb.stackOnly.y, hb.sp⟩

theorem StoredAt.cellAt (b : Addr) : t.cellAt b = s.cellAt b := by
  obtain ⟨u, v, w, hu, hw, ht⟩ := h
  rw [ht]
  exact (hu.busOnly.trans (memWrite_busOnly hw)).stackOnly.cellAt b

theorem StoredAt.peek {b : Addr} (hb : s.cellAt b ≠ s.cellAt ea) : t.peek b = s.peek b := by
  obtain ⟨u, v, w, hu, hw, ht⟩ := h
  calc
    t.peek b = w.peek b := by rw [ht]; rfl
    _ = u.peek b := (memWrite_peek hw).2 (by rwa [hu.cellAt, hu.cellAt])
    _ = s.peek b := hu.peek b

/-- Two addresses without RAM_MIRROR share no byte, unless neither has one. -/
theorem StoredAt.peek_of_ne (hp : s.params.ramMirror = false) {b : Addr} (hb : b ≠ ea) : t.peek b = s.peek b := by
  by_cases hc : s.cellAt b = s.cellAt ea
  · have hnone : s.cellAt b = none := by
      by_contra hsome
      obtain ⟨k, hk⟩ := Option.ne_none_iff_exists'.1 hsome
      exact hb (BitVec.eq_of_toNat_eq ((State.cellAt_eq_some_toNat hp hk).symm.trans
        (State.cellAt_eq_some_toNat hp (hc ▸ hk))))
    rw [State.peek, State.peek, h.cellAt, hnone]
    rfl
  · exact h.peek hc

end storedAt

section families
variable {op : Operand} {ea : Addr} {s s1 t : State} (hr : resolve op s = .next (.memory ea, s1))
include hr

theorem storeFrom_storedAt {reg : State → Byte} (h : storeFrom reg op s = .next t) : StoredAt ea s t := by
  rw [storeFrom, hr, bindValue_next] at h
  obtain ⟨w, hw, h⟩ := bindState_eq_next.1 h
  obtain rfl := Host.Outcome.next.inj h
  exact ⟨s1, _, w, resolve_readsOnly hr, hw, rfl⟩

/-- A read-modify-write: the byte at the address is read, one computed from it written, then flags and PC. -/
theorem readWriteThen_storedAt {value : Byte → State → Byte} {flags : Byte → State → State → Flags}
    (h : bindValue (resolve op s) (fun p u => bindValue (readPlace p u) fun m s2 =>
      bindState (writePlace p (value m s2) s2) fun s3 => .next (advance op (s3.setFlags (flags m s2 s3)))) =
        (.next t : StepResult)) : StoredAt ea s t := by
  rw [hr, bindValue_next] at h
  obtain ⟨m, u, hu, h⟩ := bindValue_eq_next.1 h
  obtain ⟨w, hw, h⟩ := bindState_eq_next.1 h
  obtain rfl := Host.Outcome.next.inj h
  exact ⟨u, _, w, (resolve_readsOnly hr).trans (memRead_readsOnly hu), hw, rfl⟩

/-- The rules that write the byte they resolve (43 R253 to R255; 44 R280, R281, R286 to R289). -/
theorem formMeaning_storedAt {m : Mnemonic}
    (hm : m ∈ [Mnemonic.sta, .stx, .sty, .inc, .dec, .asl, .lsr, .rol, .ror]) (h : formMeaning m op s = .next t) :
    StoredAt ea s t := by
  cases m
  case sta | stx | sty => exact storeFrom_storedAt hr h
  case inc | dec | asl | lsr | rol | ror => exact readWriteThen_storedAt hr h
  all_goals simp at hm

end families

/-- Settles O51: the frame of one write at the effective address. -/
theorem storingInstructionsTouchOnlyTheirAddress : Obligations.StoringInstructionsTouchOnlyTheirAddress := by
  intro i s s1 t ea hm hr h
  have hs := formMeaning_storedAt hr hm (exec_eq_formMeaning i s ▸ h)
  exact ⟨fun _ => hs.peek, fun hp _ => hs.peek_of_ne hp, hs.registers⟩

end Sys2Proof.Machine

/-! PROOFS. The statements of 44_incdec_shift: the outcomes of the increments, the decrements, the shifts and the
rotates, with the results in natural numbers. -/

namespace Sys2Proof.Machine

/-! ### The units in natural numbers -/

theorem incUnit_eq (x : Byte) : incUnit x = BitVec.ofNat 8 (x.toNat + 1) := by
  rw [BitVec.ofNat_add, BitVec.ofNat_toNat, BitVec.setWidth_eq]; rfl

/-- A decrement adds 255 modulo 256 (40 R157). -/
theorem decUnit_eq (x : Byte) : decUnit x = BitVec.ofNat 8 (x.toNat + 255) := by
  rw [BitVec.ofNat_add, BitVec.ofNat_toNat, BitVec.setWidth_eq]
  exact BitVec.sub_eq_add_neg x 1

/-- Bit 0 of a byte (00_scope R9). -/
theorem getLsbD_zero_eq_decide (b : Byte) : b.getLsbD 0 = decide (b.toNat % 2 = 1) :=
  Nat.testBit_zero b.toNat

/-- A left shift doubles modulo 256. -/
theorem shiftLeft_one_eq (x : Byte) : x <<< 1 = BitVec.ofNat 8 (2 * x.toNat) := by
  apply BitVec.eq_of_toNat_eq
  rw [BitVec.toNat_shiftLeft, BitVec.toNat_ofNat, Nat.shiftLeft_eq, Nat.mul_comm]

/-- A right shift halves. -/
theorem ushiftRight_one_eq (x : Byte) : x >>> 1 = BitVec.ofNat 8 (x.toNat / 2) := by
  have := x.isLt
  apply BitVec.eq_of_toNat_eq
  rw [BitVec.toNat_ushiftRight, BitVec.toNat_ofNat, Nat.shiftRight_eq_div_pow]
  omega

/-- A left shift leaves bit 0 clear, so a bit put there is added. -/
theorem shiftLeft_one_or_eq_add (x : Byte) (c : Bool) : x <<< 1 ||| maskIf c 0x01 = x <<< 1 + maskIf c 0x01 := by
  refine (BitVec.add_eq_or_of_and_eq_zero _ _ ?_).symm
  revert x c; decide

/-- A right shift leaves bit 7 clear, so a bit put there is added. -/
theorem ushiftRight_one_or_eq_add (x : Byte) (c : Bool) : x >>> 1 ||| maskIf c 0x80 = x >>> 1 + maskIf c 0x80 := by
  refine (BitVec.add_eq_or_of_and_eq_zero _ _ ?_).symm
  revert x c; decide

/-- Asl: doubled, bit 7 out (40 R155). -/
theorem aslUnit_eq (x : Byte) (c : Bool) :
    aslUnit x c = (BitVec.ofNat 8 (2 * x.toNat), decide (128 ≤ x.toNat)) := by
  rw [aslUnit, shiftLeft_one_eq, getLsbD_seven]

/-- Lsr: halved, bit 0 out (40 R155). -/
theorem lsrUnit_eq (x : Byte) (c : Bool) :
    lsrUnit x c = (BitVec.ofNat 8 (x.toNat / 2), decide (x.toNat % 2 = 1)) := by
  rw [lsrUnit, ushiftRight_one_eq, getLsbD_zero_eq_decide]

/-- Rol: doubled with the carry in bit 0, bit 7 out (40 R155). -/
theorem rolUnit_eq (x : Byte) (c : Bool) :
    rolUnit x c = (BitVec.ofNat 8 (2 * x.toNat + (if c then 1 else 0)), decide (128 ≤ x.toNat)) := by
  rw [rolUnit, shiftLeft_one_or_eq_add, shiftLeft_one_eq, getLsbD_seven, BitVec.ofNat_add]
  cases c <;> rfl

/-- Ror: halved with the carry in bit 7, bit 0 out (40 R155). -/
theorem rorUnit_eq (x : Byte) (c : Bool) :
    rorUnit x c = (BitVec.ofNat 8 (x.toNat / 2 + (if c then 128 else 0)), decide (x.toNat % 2 = 1)) := by
  rw [rorUnit, ushiftRight_one_or_eq_add, ushiftRight_one_eq, getLsbD_zero_eq_decide, BitVec.ofNat_add]
  cases c <;> rfl

/-- The flags after a shift as the statements say them (44 R286 to R289). -/
theorem Flags.shifted_eq (f : Flags) (r : Byte × Bool) : f.shifted r = { f.withResult r.1 with c := r.2 } := by
  rw [shifted, setZN_eq_withResult]

/-! ### The outcomes -/

theorem modifyRegister_eq (unit : Byte → Byte) (reg : State → Byte) (set : State → Byte → State) (s : State) :
    modifyRegister unit reg set s =
      .next { set s (unit (reg s)) with flags := (set s (unit (reg s))).flags.withResult (unit (reg s)) } := by
  rw [modifyRegister, advance_implied, State.setZN_eq_withResult]

/-- A shift of A takes the carry of the state it starts from and moves no PC. -/
theorem shiftWith_accumulator {unit : Byte → Bool → Byte × Bool} {s : State} {r : Byte × Bool}
    (hr : unit s.a s.flags.c = r) :
    shiftWith unit .accumulator s = .next { s with a := r.1, flags := { s.flags.withResult r.1 with c := r.2 } } := by
  have hadvance : ∀ u : State, advance .accumulator u = u := advance_implied
  rw [shiftWith, resolve, bindValue_next, readPlace, bindValue_next, hr]
  simp only [writePlace, bindState_next, hadvance, Flags.shifted_eq]
  rfl

section memory
variable {op : Operand} {s s1 s2 t : State} {ea : Addr} {m : Byte} (h : resolve op s = .next (.memory ea, s1))
  (hm : memRead ea s1 = .next (m, s2))
include h hm

/-- INC and DEC: the write of the new value leaves the flags and PC of the start. -/
theorem modifyWith_of_memory {unit : Byte → Byte} {v : Byte} (hv : unit m = v) (hw : memWrite ea v s2 = .next t) :
    modifyWith unit op s = .next { t with
      flags := s.flags.withResult v, pc := s.pc + BitVec.ofNat 16 op.mode.size } := by
  have ht : BusOnly s t := ((resolve_readsOnly h).trans (memRead_readsOnly hm)).busOnly.trans (memWrite_busOnly hw)
  have hpc : t.pc = s.pc := by rw [ht]
  rw [modifyWith, h, bindValue_next, readPlace, hm, bindValue_next, hv, writePlace, hw, bindState_next,
    State.setZN_eq_withResult, ht.stackOnly.flags, advance, hpc]
  rfl

/-- A shift in memory: its carry in, like its flags and PC, are those of the start. -/
theorem shiftWith_of_memory {unit : Byte → Bool → Byte × Bool} {r : Byte × Bool} (hr : unit m s.flags.c = r)
    (hw : memWrite ea r.1 s2 = .next t) :
    shiftWith unit op s = .next { t with
      flags := { s.flags.withResult r.1 with c := r.2 }, pc := s.pc + BitVec.ofNat 16 op.mode.size } := by
  have hreads : ReadsOnly s s2 := (resolve_readsOnly h).trans (memRead_readsOnly hm)
  have ht : BusOnly s t := hreads.busOnly.trans (memWrite_busOnly hw)
  have hpc : t.pc = s.pc := by rw [ht]
  rw [shiftWith, h, bindValue_next, readPlace, hm, bindValue_next, hreads.flags, hr]
  simp only [writePlace, hw, bindState_next, ht.stackOnly.flags, Flags.shifted_eq, advance, State.setFlags_pc, hpc]
  rfl

end memory

/-- Settles O30: each mnemonic is the read-modify-write over its unit. -/
theorem incDecMemoryComplete : Obligations.IncDecMemoryComplete := fun _ s _ _ _ _ m h hm =>
  ⟨fun hi hw => (exec_of_mnemonic hi s).trans (modifyWith_of_memory h hm (incUnit_eq m) hw),
    fun hi hw => (exec_of_mnemonic hi s).trans (modifyWith_of_memory h hm (decUnit_eq m) hw)⟩

/-- Settles O32: each is the shift of A over its unit, which takes A and C of the state itself. -/
theorem accumulatorShiftsComplete : Obligations.AccumulatorShiftsComplete := by
  rintro s _ rfl
  exact ⟨shiftWith_accumulator (aslUnit_eq _ _), shiftWith_accumulator (lsrUnit_eq _ _),
    shiftWith_accumulator (rolUnit_eq _ _), shiftWith_accumulator (rorUnit_eq _ _)⟩

/-- Settles O33: each mnemonic is the shift in memory over its unit, with the carry from before the accesses. -/
theorem memoryShiftsComplete : Obligations.MemoryShiftsComplete := fun _ s _ _ _ _ _ h hm =>
  ⟨fun hi hw => (exec_of_mnemonic hi s).trans (shiftWith_of_memory h hm (aslUnit_eq _ _) hw),
    fun hi hw => (exec_of_mnemonic hi s).trans (shiftWith_of_memory h hm (lsrUnit_eq _ _) hw),
    fun hi hw => (exec_of_mnemonic hi s).trans (shiftWith_of_memory h hm (rolUnit_eq _ _) hw),
    fun hi hw => (exec_of_mnemonic hi s).trans (shiftWith_of_memory h hm (rorUnit_eq _ _) hw)⟩

/-- Settles O31: the four register updates with SetZN. -/
theorem incDecRegistersComplete : Obligations.IncDecRegistersComplete := fun s =>
  ⟨modifyRegister_eq incUnit State.x State.setX s, modifyRegister_eq incUnit State.y State.setY s,
    modifyRegister_eq decUnit State.x State.setX s, modifyRegister_eq decUnit State.y State.setY s⟩

end Sys2Proof.Machine

/-! PROOFS. The statements of 45_stack: the outcomes of the pushes and the pulls, and the round trips through a stack in
RAM. -/

namespace Sys2Proof.Machine

/-! ### The outcomes -/

/-- The generic advance of PHA and PHP moves no PC, so each is its push (45 R310, R311). -/
theorem pushThen_eq_push (v : Byte) (s : State) :
    bindState (push v s) (fun s1 => .next (advance .implied s1)) = push v s := by
  cases push v s <;> simp [advance_implied]

theorem exec_pha_eq_push (s : State) : exec .pha s = push s.a s := pushThen_eq_push s.a s

theorem exec_php_eq_push (s : State) : exec .php s = push s.flags.pushed s := pushThen_eq_push s.flags.pushed s

/-- A write at the stack address leaves SP, so the push leaves the SP before it less 1 (40 R160). -/
theorem push_of_memWrite {s t : State} {v : Byte} (h : memWrite (stackAddr s.sp) v s = .next t) :
    push v s = .next { t with sp := s.sp - 1 } := by
  rw [push, h, bindState_next, (memWrite_busOnly h).sp]; rfl

/-- PLA is its pull, then A and SetZN (45 R312). -/
theorem execPla_of_pull {s s1 : State} {v : Byte} (h : pull s = .next (v, s1)) :
    execPla s = .next { s1 with a := v, flags := s1.flags.withResult v } := by
  rw [execPla, h, bindValue_next, advance_implied, State.setZN_eq_withResult]; rfl

/-- PLP is its pull, then the load of P (45 R313). -/
theorem execPlp_of_pull {s s1 : State} {v : Byte} (h : pull s = .next (v, s1)) :
    execPlp s = .next { s1 with flags := Flags.ofByte v } := by
  rw [execPlp, h, bindValue_next, advance_implied]; rfl

/-- Bits 4 and 5 of the copy that PHP and BRK push are set (10_state R41, R42). -/
theorem Flags.pushed_hardwired (f : Flags) : f.pushed &&& 0x30 = 0x30 := by
  rw [pushed, BitVec.and_or_distrib_right, toByte_hardwired]; rfl

/-- Settles O34: each is its push, which is the write and SP - 1. -/
theorem pushesCompleteWithResult : Obligations.PushesCompleteWithResult := fun s _ =>
  ⟨fun h => (exec_pha_eq_push s).trans (push_of_memWrite h), fun h => (exec_php_eq_push s).trans (push_of_memWrite h),
    s.flags.pushed_hardwired⟩

/-- Settles O35: the read after SP + 1 is the pull; P reads the byte loaded without bit 4 and with bit 5. -/
theorem pullsCompleteWithResult : Obligations.PullsCompleteWithResult := fun s s1 v h =>
  have hpull : pull s = .next (v, s1) := h
  ⟨execPla_of_pull hpull, Flags.ofByte v, execPlp_of_pull hpull, Flags.toByte_ofByte v⟩

/-! ### The round trips -/

/-- Loading the pushed copy of P gives the flags back: B is not stored (10_state R46). -/
@[simp] theorem Flags.ofByte_pushed (f : Flags) : Flags.ofByte f.pushed = f := by
  have hbit (v : Byte) : Flags.ofByte (v ||| 0x10) = Flags.ofByte v := by simp [Flags.ofByte]
  rw [pushed, hbit, ofByte_toByte]

/-- Every slot of a stack in RAM takes writes (20_memory R74). -/
theorem State.stackInRam.storeAt {s : State} (hs : s.stackInRam) (n : Byte) : s.storeAt (stackAddr n) = true := by
  have hm : s.mountAt (stackAddr n) = some ramMount := hs n
  rw [State.storeAt, hm]; rfl

/-- A pull where a store holds the byte above SP. -/
theorem pull_of_peek {s : State} {v : Byte} (h : s.peek (stackAddr (s.sp + 1)) = some v) :
    pull s = .next (v, (s.setSp (s.sp + 1)).record ⟨.read, stackAddr (s.sp + 1), v⟩) :=
  memRead_of_peek (s := s.setSp (s.sp + 1)) h

/-- A pull after a push answers the byte pushed and the SP from before it, whatever else changed between that is neither
SP nor a stored byte. -/
theorem pull_of_push {s t u : State} {v : Byte} (hs : s.stackInRam) (h : push v s = .next t) (hsp : u.sp = t.sp)
    (hpeek : u.peek = t.peek) :
    pull u = .next (v, (u.setSp s.sp).record ⟨.read, stackAddr s.sp, v⟩) := by
  have hback : u.sp + 1 = s.sp := by rw [hsp, push_sp h, BitVec.sub_add_cancel]
  obtain ⟨w, hw, rfl⟩ := push_next h
  have hslot : u.peek (stackAddr (u.sp + 1)) = some v := by
    rw [hback, hpeek]
    exact (memWrite_peek hw).1 rfl (hs.storeAt s.sp)
  rw [pull_of_peek hslot, hback]

/-- Settles O46: the pull gives the byte pushed, and the byte PHP pushes gives the flags back. -/
theorem pushThenPullRestores : Obligations.PushThenPullRestores := by
  refine fun s t hs => ⟨fun a h => ?_, fun f h => ?_⟩
  · rw [exec_pha_eq_push] at h
    have hpull := pull_of_push (u := { t with a := a }) hs h rfl rfl
    exact ⟨_, execPla_of_pull hpull, rfl, rfl, rfl⟩
  · rw [exec_php_eq_push] at h
    have hpull := pull_of_push (u := { t with flags := f }) hs h rfl rfl
    have hflags := s.flags.ofByte_pushed
    exact ⟨_, execPlp_of_pull hpull, hflags, congrArg Flags.toByte hflags, rfl⟩

end Sys2Proof.Machine

/-! PROOFS. The statements of 46_control: the outcomes of the jumps, the returns and the branches, and the round trip of
JSR and RTS through a stack in RAM. -/

namespace Sys2Proof.Machine

/-! ### The stack by its slots -/

/-- A word is pushed by the two writes at SP and SP - 1 (40 R162). -/
theorem pushWord_of_memWrite {s s1 s2 : State} {w : Addr} (h1 : memWrite (stackAddr s.sp) (hiByte w) s = .next s1)
    (h2 : memWrite (stackAddr (s.sp - 1)) (loByte w) (s1.setSp (s.sp - 1)) = .next s2) :
    pushWord w s = .next (s2.setSp (s.sp - 2)) := by
  have hlo : push (loByte w) (s1.setSp (s.sp - 1)) = .next (s2.setSp (s.sp - 1 - 1)) := push_of_memWrite h2
  have hsp : s.sp - 1 - 1 = s.sp - 2 := BitVec.sub_sub s.sp 1 1
  rw [pushWord, push_of_memWrite h1, bindState_next, ← hsp]
  exact hlo

/-- A pull is the read at the next slot, given the value of that slot's SP. -/
theorem pull_of_memRead {s t : State} {n v : Byte} (hn : s.sp + 1 = n)
    (h : memRead (stackAddr n) (s.setSp n) = .next (v, t)) : pull s = .next (v, t) := by
  subst hn; exact h

theorem pull_sp {s t : State} {v : Byte} (h : pull s = .next (v, t)) : t.sp = s.sp + 1 := (pull_next h).2.sp

/-- Two pulls are a pulled word, low byte first (40 R163). -/
theorem pullWord_of_pull {s s1 s2 : State} {lo hi : Byte} (h1 : pull s = .next (lo, s1))
    (h2 : pull s1 = .next (hi, s2)) : pullWord s = .next (wordOf hi lo, s2) := by
  rw [pullWord, h1, bindValue_next, h2, bindValue_next]

theorem pullWord_sp {s t : State} {w : Addr} (h : pullWord s = .next (w, t)) : t.sp = s.sp + 2 := by
  obtain ⟨_, _, s1, h1, h2, _⟩ := pullWord_next h
  rw [pull_sp h2, pull_sp h1, BitVec.add_assoc]; rfl

/-! ### The outcomes -/

/-- JSR pushes PC + 1, the address of its last byte, then goes to its target (46 R331). -/
theorem exec_jsr_eq (target : Addr) (s : State) :
    exec (.jsr target) s = bindState (pushWord (s.pc + 1) s) fun t => .next (t.setPc target) := by
  have hpc : s.pc + 2 - 1 = s.pc + 1 := by bv_omega
  rw [← hpc]; rfl

/-- Settles O36: JMP by its equation; the two writes of JSR are its pushed word. -/
theorem jumpsComplete : Obligations.JumpsComplete := by
  refine fun s s1 s2 a => ⟨rfl, fun h1 h2 => ?_⟩
  rw [exec_jsr_eq, pushWord_of_memWrite (w := s.pc + 1) h1 h2]; rfl

/-- RTS goes to the address after the word it pulls (46 R332). -/
theorem exec_rts_of_pullWord {s t : State} {w : Addr} (h : pullWord s = .next (w, t)) :
    exec .rts s = .next (t.setPc (w + 1)) := by
  change execRts s = _
  rw [execRts, h, bindValue_next]

/-- RTI is the pull of P, then that of PC (46 R333). -/
theorem exec_rti_of_pulls {s s1 t : State} {v : Byte} {w : Addr} (hp : pull s = .next (v, s1))
    (hpc : pullWord (s1.setP v) = .next (w, t)) : exec .rti s = .next (t.setPc w) := by
  change returnFromBreak s = _
  rw [returnFromBreak, hp, bindValue_next, hpc, bindValue_next]

/-- Settles O38: the two reads are the two pulls of the word. -/
theorem rtsCompletesWithResult : Obligations.RtsCompletesWithResult := by
  intro s s1 s2 lo hi h1 h2
  have hlo : pull s = .next (lo, s1) := h1
  have hsp : s1.sp + 1 = s.sp + 2 := by rw [pull_sp hlo, BitVec.add_assoc]; rfl
  rw [BitVec.ofNat_add, ← wordOf_eq_ofNat]
  exact exec_rts_of_pullWord (pullWord_of_pull hlo (pull_of_memRead hsp h2))

/-- Settles O39: the first read is the pull of P, the other two the pulled word; no later pull touches the flags. -/
theorem rtiCompletesWithResult : Obligations.RtiCompletesWithResult := by
  intro s s1 s2 s3 v lo hi h1 h2 h3
  have hv : pull s = .next (v, s1) := h1
  have hsp1 : s1.sp + 1 = s.sp + 2 := by rw [pull_sp hv, BitVec.add_assoc]; rfl
  have hlo : pull (s1.setP v) = .next (lo, s2) := pull_of_memRead hsp1 h2
  have hsp2 : s2.sp + 1 = s.sp + 3 := by rw [pull_sp hlo, State.setP_sp, hsp1, BitVec.add_assoc]; rfl
  have hword := pullWord_of_pull hlo (pull_of_memRead hsp2 h3)
  constructor
  · rw [← wordOf_eq_ofNat]
    exact exec_rti_of_pulls hv hword
  · rw [State.p, (pullWord_stackOnly hword).flags]
    exact Flags.toByte_ofByte v

/-- A branch goes to the address after its operand byte, plus the displacement where its condition holds (46 R334). -/
theorem branchIf_relative (cond : Flags → Bool) (d : Byte) (s : State) :
    branchIf cond (.relative d) s = .next { s with
      pc := BitVec.ofNat 16 (s.pc.toNat + 1 +
        (if cond s.flags then (if d.toNat < 128 then d.toNat else d.toNat + 0xFF00) else 0)) } := by
  have hcases : branchIf cond (.relative d) s =
      if cond s.flags then .next (s.setPc (s.pc + 1 + sext16 d)) else .next (s.setPc (s.pc + 1)) := rfl
  rw [hcases]
  split
  · rw [branchTarget_eq]; rfl
  · rw [Nat.add_zero, BitVec.ofNat_add, BitVec.ofNat_toNat, BitVec.setWidth_eq]; rfl

/-- Settles O40: each branch is its condition on one flag. -/
theorem branchesComplete : Obligations.BranchesComplete := fun s d =>
  ⟨branchIf_relative (!·.c) d s, branchIf_relative (·.c) d s, branchIf_relative (·.z) d s,
    branchIf_relative (!·.z) d s, branchIf_relative (·.n) d s, branchIf_relative (!·.n) d s,
    branchIf_relative (!·.v) d s, branchIf_relative (·.v) d s⟩

/-! ### The round trip -/

theorem stackAddr_toNat (n : Byte) : (stackAddr n).toNat = 256 + n.toNat := by
  have hbase : Config.stackBase.toNat = 256 := rfl
  have hn := n.isLt
  rw [stackAddr, BitVec.toNat_add, zext16_toNat, hbase]
  exact Nat.mod_eq_of_lt (by omega)

/-- The stack page lies in the first 2048 bytes of the RAM, so RAM_MIRROR leaves its cells where they are. -/
theorem State.stackInRam.cellAt {s : State} (hs : s.stackInRam) (n : Byte) :
    s.cellAt (stackAddr n) = some (256 + n.toNat) := by
  have := n.isLt
  have hmod : (256 + n.toNat) % 2048 = 256 + n.toNat := Nat.mod_eq_of_lt (by omega)
  have hm : s.mountAt (stackAddr n) = some ramMount := hs n
  rw [State.cellAt_of_mount hm, Mount.cell, Mount.offset, stackAddr_toNat]
  simp [ramMount, Config.ramStart, Config.ramMirrorSize, hmod]

theorem State.stackInRam.of_stackOnly {s t : State} (hs : s.stackInRam) (h : StackOnly s t) : t.stackInRam := by
  rw [h]; exact hs

/-- The slots of a stack in RAM after a push: the byte pushed at SP, every other slot as before. -/
theorem push_peek {s t : State} {v : Byte} (hs : s.stackInRam) (h : push v s = .next t) (n : Byte) :
    t.peek (stackAddr n) = if n = s.sp then some v else s.peek (stackAddr n) := by
  obtain ⟨w, hw, rfl⟩ := push_next h
  have hpeek := memWrite_peek (b := stackAddr n) hw
  split
  next hn => exact hpeek.1 (by rw [hn]) (hs.storeAt s.sp)
  next hn =>
    refine hpeek.2 fun hcell => hn (BitVec.eq_of_toNat_eq ?_)
    rw [hs.cellAt, hs.cellAt] at hcell
    exact Nat.add_left_cancel (Option.some.inj hcell)

/-- A pushed word in a stack in RAM: its high byte in the slot at SP, its low byte in the slot below. -/
theorem pushWord_peek {s t : State} {w : Addr} (hs : s.stackInRam) (h : pushWord w s = .next t) :
    t.peek (stackAddr s.sp) = some (hiByte w) ∧ t.peek (stackAddr (s.sp - 1)) = some (loByte w) := by
  obtain ⟨s1, h1, h2⟩ := pushWord_next h
  have hs1 := hs.of_stackOnly (push_stackOnly h1)
  have hne : s.sp ≠ s.sp - 1 := by bv_omega
  constructor
  · rw [push_peek hs1 h2, push_sp h1, if_neg hne, push_peek hs h1, if_pos rfl]
  · rw [push_peek hs1 h2, push_sp h1, if_pos rfl]

/-- A word pulled where stores hold the two bytes above SP. -/
theorem pullWord_of_peek {s : State} {lo hi : Byte} (hlo : s.peek (stackAddr (s.sp + 1)) = some lo)
    (hhi : s.peek (stackAddr (s.sp + 1 + 1)) = some hi) : ∃ t, pullWord s = .next (wordOf hi lo, t) :=
  ⟨_, pullWord_of_pull (pull_of_peek hlo) (pull_of_peek hhi)⟩

/-- Settles O45: RTS reads the two slots JSR wrote, so it pulls the word pushed, and SP is back. -/
theorem jsrThenRtsReturns : Obligations.JsrThenRtsReturns := by
  intro s t target hs h
  rw [exec_jsr_eq] at h
  obtain ⟨t1, hpush, ht⟩ := bindState_eq_next.1 h
  obtain rfl := Host.Outcome.next.inj ht
  have hpushed := (ReadsOnly.refl s).pushed.pushWord hpush
  have hslot1 : t1.sp + 1 = s.sp - 1 := by rw [hpushed.sp]; bv_omega
  have hslot2 : t1.sp + 1 + 1 = s.sp := by rw [hslot1, BitVec.sub_add_cancel]
  obtain ⟨hhi, hlo⟩ := pushWord_peek hs hpush
  obtain ⟨u, hpull⟩ : ∃ u, pullWord (t1.setPc target) = .next (s.pc + 1, u) := by
    rw [← wordOf_hi_lo (s.pc + 1)]
    refine pullWord_of_peek ?_ ?_
    · rw [State.setPc_sp, hslot1]; exact hlo
    · rw [State.setPc_sp, hslot2]; exact hhi
  have hpulled := pullWord_stackOnly hpull
  have hpc : s.pc + 1 + 1 = s.pc + 2 := BitVec.add_assoc s.pc 1 1
  have hsp : u.sp = s.sp := by rw [pullWord_sp hpull, State.setPc_sp, ← hslot2, BitVec.add_assoc]; rfl
  exact ⟨_, exec_rts_of_pullWord hpull, rfl, hpc, hpulled.a.trans hpushed.stack.a,
    hpulled.x.trans hpushed.stack.x, hpulled.y.trans hpushed.stack.y, hsp, hpulled.flags.trans hpushed.stack.flags⟩

end Sys2Proof.Machine

/-! PROOFS. The statements of 47_flags_nop_brk: the flag instructions, NOP, and the trap BRK takes. -/

namespace Sys2Proof.Machine

/-- A flag instruction changes the stored flags alone: PC stands past its one byte already (40 R132). -/
theorem changeFlags_eq (f : Flags → Flags) (s : State) : changeFlags f s = .next { s with flags := f s.flags } :=
  congrArg Host.Outcome.next (advance_implied (s.setFlags (f s.flags)))

/-- Settles O41: each flag instruction is its update of the flags; NOP is the advance over no operand byte. -/
theorem flagInstructionsComplete : Obligations.FlagInstructionsComplete := fun s =>
  ⟨changeFlags_eq ({ · with c := false }) s, changeFlags_eq ({ · with c := true }) s,
    changeFlags_eq ({ · with d := false }) s, changeFlags_eq ({ · with d := true }) s,
    changeFlags_eq ({ · with i := false }) s, changeFlags_eq ({ · with i := true }) s,
    changeFlags_eq ({ · with v := false }) s, congrArg Host.Outcome.next (advance_implied s)⟩

theorem StackOnly.mounts {s t : State} (h : StackOnly s t) : t.mounts = s.mounts := by rw [h]

theorem StackOnly.params {s t : State} (h : StackOnly s t) : t.params = s.params := by rw [h]

/-- BRK after its pushes is the jump through the vector, with I masked as BRK_SETS_I says (47 R368); no push touches
the flags, so P is pushed as it was before. -/
theorem exec_brk_of_pushes {s s1 s2 : State} (hpc : pushWord (s.pc + 1) s = .next s1)
    (hp : push s.flags.pushed s1 = .next s2) :
    exec .brk s = bindValue
      (readWord Config.brkVector (s2.setFlags { s.flags with i := if s.params.brkSetsI then true else s.flags.i }))
      fun w t => .next (t.setPc w) := by
  have hword := pushWord_stackOnly hpc
  have hpushed : StackOnly s s2 := hword.trans (push_stackOnly hp)
  have hmask : s2.maskOnBreak =
      s2.setFlags { s.flags with i := if s.params.brkSetsI then true else s.flags.i } := by
    rw [State.maskOnBreak_eq, hpushed.flags, hpushed.params, Bool.if_true_left, Bool.decide_eq_true]
  change takeBreak s = _
  rw [takeBreak, hpc, bindState_next, hword.flags, hp, bindState_next, hmask]

/-- Settles O42: the three writes are the pushed word and the pushed P; then the two reads are the word at the vector,
and an unmapped vector faults at its first byte. -/
theorem brkTakesTheTrap : Obligations.BrkTakesTheTrap := by
  intro s s1 s2 s3 h1 h2 h3 frame
  have hpc : pushWord (s.pc + 1) s = .next (s2.setSp (s.sp - 2)) := pushWord_of_memWrite h1 h2
  have hp : push s.flags.pushed (s2.setSp (s.sp - 2)) = .next (s3.setSp (s.sp - 2 - 1)) := push_of_memWrite h3
  have hsp : s.sp - 2 - 1 = s.sp - 3 := BitVec.sub_sub s.sp 2 1
  have hbrk : exec .brk s = bindValue (readWord Config.brkVector frame) fun w t => .next (t.setPc w) := by
    rw [exec_brk_of_pushes hpc hp, hsp]; rfl
  obtain ⟨readWord_next, readWord_fault, -⟩ := readWordIsLittleEndian
  refine ⟨fun s4 s5 lo hi hlo hhi => ?_, fun hnone => ?_⟩
  · rw [hbrk, readWord_next frame s4 s5 Config.brkVector lo hi hlo hhi]; rfl
  · have hpushed : StackOnly s (s3.setSp (s.sp - 2 - 1)) := (pushWord_stackOnly hpc).trans (push_stackOnly hp)
    have hmounts : frame.mounts = s.mounts := hpushed.mounts
    have hunmapped := memRead_unmapped ((State.mountAt_congr hmounts 0xFFFE).trans hnone)
    rw [hbrk, readWord_fault frame Config.brkVector _ hunmapped]; rfl

end Sys2Proof.Machine

/-! PROOFS. The statements of 60_exceptions: which errors a step raises and what it did before them, that an error is
terminal, and the round trip of BRK and RTI through a stack in RAM. -/

namespace Sys2Proof

/-- How many operand bytes a template takes (30_encoding R107). -/
def Template.size : Template → Nat
  | .op0 _ => 0
  | .op8 _ => 1
  | .op16 _ => 2

theorem Template.Completes.length_eq {t : Template} {os : List Byte} {i : Instr} (h : t.Completes i os) :
    os.length = t.size := by
  unfold Template.Completes at h
  split at h
  · rfl
  · rfl
  · rfl
  · exact h.elim

/-- The template of an instruction's opcode byte takes as many operand bytes as its mode has. -/
theorem opcodeTemplate_opcode_size (i : Instr) : ∃ t, opcodeTemplate i.opcode = some t ∧ t.size = i.mode.size := by
  obtain ⟨t, ht, hc⟩ := opcodeTemplate_opcode i
  exact ⟨t, ht, hc.length_eq.symm.trans i.operand.length_bytes⟩

end Sys2Proof

namespace Sys2Proof.Machine

/-! ### The fetch by the template of its opcode byte -/

/-- What the fetch does after the opcode byte: it reads the operand bytes the template takes (40 R130). -/
def fetchOperand : Template → State → Result Instr
  | .op0 i, s => .next (i, s)
  | .op8 f, s => bindValue (memRead s.pc s) fun b t => .next (f b, t)
  | .op16 f, s => bindValue (readWord s.pc s) fun w t => .next (f w, t)

section fetch
variable {s s1 : State} {op : Byte} (hop : memRead s.pc s = .next (op, s1))
include hop

/-- An unassigned byte ends the fetch (60_exceptions R403). -/
theorem fetch_of_unassigned (ht : opcodeTemplate op = none) :
    fetch s = .fault (.unknownOpcode op s.pc (⟨.read, s.pc, op⟩ :: s.log)) := by
  have hlog : s1.log = ⟨.read, s.pc, op⟩ :: s.log := by rw [(memRead_next hop).1]
  rw [fetch, hop, bindValue_next]
  simp only [ht, State.setPc_log, hlog]

theorem fetch_of_template {t : Template} (ht : opcodeTemplate op = some t) :
    fetch s = fetchOperand t (s1.setPc (s.pc + 1)) := by
  rw [fetch, hop, bindValue_next]
  cases t <;> simp only [ht] <;> rfl

end fetch

theorem fetchOperand_behaves (t : Template) (s : State) : Behaves s Prod.snd (fetchOperand t s) := by
  cases t with
  | op0 i => exact behaves_value ⟨rfl, rfl, rfl, rfl, rfl, rfl⟩
  | op8 f => exact (memRead_behaves _ s).bindValue fun _ _ _ => behaves_value ⟨rfl, rfl, rfl, rfl, rfl, rfl⟩
  | op16 f => exact (readPair_behaves _ _ s).bindValue fun _ _ _ => behaves_value ⟨rfl, rfl, rfl, rfl, rfl, rfl⟩

/-- The first operand byte is not mapped. -/
theorem fetchOperand_first_unmapped {t : Template} {s : State} (ht : 1 ≤ t.size) (h : s.mountAt s.pc = none) :
    fetchOperand t s = .fault (.unmappedAddress s.pc .read s.log) := by
  cases t with
  | op0 i => simp [Template.size] at ht
  | op8 f => rw [fetchOperand, memRead_unmapped h, bindValue_fault]
  | op16 f => rw [fetchOperand, readWord, readPair, memRead_unmapped h, bindValue_fault, bindValue_fault]

/-- The first of two operand bytes is read, the second is not mapped. -/
theorem fetchOperand_second_unmapped {t : Template} {s s1 : State} {b : Byte} (ht : t.size = 2)
    (hb : memRead s.pc s = .next (b, s1)) (h : s1.mountAt (s.pc + 1) = none) :
    fetchOperand t s = .fault (.unmappedAddress (s.pc + 1) .read s1.log) := by
  cases t with
  | op0 i => simp [Template.size] at ht
  | op8 f => simp [Template.size] at ht
  | op16 f =>
    rw [fetchOperand, readWord, readPair, hb, bindValue_next, memRead_unmapped h, bindValue_fault, bindValue_fault]

/-! ### What a step raises -/

theorem step_of_running {s : State} (hs : s.status = .running) : step s = bindValue (fetch s) exec := by
  simp only [step, hs]

theorem step_of_fetch_fault {s : State} {e : Fault} (hs : s.status = .running) (h : fetch s = .fault e) :
    step s = .fault e := by
  rw [step_of_running hs, h, bindValue_fault]

/-- Settles O7: the fetch ends at the byte, which has no template. -/
theorem unassignedOpcodeFaults : Obligations.UnassignedOpcodeFaults := fun _ _ op hs hop hun =>
  step_of_fetch_fault hs (fetch_of_unassigned hop ((opcodeTemplate_eq_none_iff op).2 hun))

/-- A read does not look at PC. -/
theorem memRead_setPc {s t : State} {a : Addr} {v : Byte} (h : memRead a s = .next (v, t)) (pc : Addr) :
    memRead a (s.setPc pc) = .next (v, t.setPc pc) := by
  obtain ⟨m, hm⟩ := Option.isSome_iff_exists.1 (memRead_next h).2.2.2
  have hm' : (s.setPc pc).mountAt a = some m := hm
  rw [memRead_of_mount hm] at h
  rw [memRead_of_mount hm']
  by_cases hk : m.kind = .device
  · rw [if_pos hk] at h ⊢
    obtain ⟨rfl, rfl⟩ := Prod.mk.inj (Host.Outcome.next.inj h)
    rfl
  · rw [if_neg hk] at h ⊢
    obtain ⟨rfl, rfl⟩ := Prod.mk.inj (Host.Outcome.next.inj h)
    rfl

/-- Settles O8: the bytes of an instruction by the template of its opcode byte, its own accesses by the list it
performs. -/
theorem fetchFromUnmappedFaults : Obligations.FetchFromUnmappedFaults := by
  refine ⟨fun s hs => ⟨fun hpc => ?_, fun op s1 i hop hi => ?_⟩, fun i s before after k a hl hb ha =>
    (exec_performs i s).faults before after k a hl hb ha⟩
  · exact step_of_fetch_fault hs (by rw [fetch, memRead_unmapped hpc, bindValue_fault])
  · obtain ⟨t, ht, hsize⟩ := opcodeTemplate_opcode_size i
    have hfetch := fetch_of_template hop (hi ▸ ht)
    have hmounts : s1.mounts = s.mounts := (memRead_readsOnly hop).mounts
    have hlog : s1.log = ⟨.read, s.pc, op⟩ :: s.log := by rw [(memRead_next hop).1]
    rw [← hlog]
    refine ⟨fun h1 hnone => step_of_fetch_fault hs ?_, fun b s2 h2 hb hnone => step_of_fetch_fault hs ?_⟩
    · have hnone1 : (s1.setPc (s.pc + 1)).mountAt (s.pc + 1) = none := (State.mountAt_congr hmounts _).trans hnone
      rw [hfetch]
      exact fetchOperand_first_unmapped (hsize ▸ h1) hnone1
    · have hnext : s.pc + 1 + 1 = s.pc + 2 := BitVec.add_assoc s.pc 1 1
      have hlog2 : (s2.setPc (s.pc + 1)).log = ⟨.read, s.pc + 1, b⟩ :: s1.log := by rw [(memRead_next hb).1]; rfl
      have hmounts2 : s2.mounts = s.mounts := (memRead_readsOnly hb).mounts.trans hmounts
      have hnone2 : (s2.setPc (s.pc + 1)).mountAt (s.pc + 1 + 1) = none := by
        rw [hnext]; exact (State.mountAt_congr hmounts2 _).trans hnone
      have hb' : memRead (s1.setPc (s.pc + 1)).pc (s1.setPc (s.pc + 1)) = .next (b, s2.setPc (s.pc + 1)) :=
        memRead_setPc hb _
      rw [hfetch, ← hlog2, ← hnext]
      exact fetchOperand_second_unmapped (hsize.trans h2) hb' hnone2

/-- An error raised later in a run is one raised from its start. -/
theorem UnmappedFrom.of_extends {s t : State} {e : Fault} (h : UnmappedFrom t e) (k : Extends s t) :
    UnmappedFrom s e := by
  obtain ⟨⟨a, kind, seen, he, hnone⟩, new, hnew⟩ := h
  obtain ⟨more, hmore, _⟩ := k.logGrows
  exact ⟨⟨a, kind, seen, he, (k.mountAt a).symm.trans hnone⟩, new ++ more, by rw [hnew, hmore, List.append_assoc]⟩

theorem Behaves.unmappedFrom_of_fault {β : Type} {s : State} {st : β → State} {r : Host.Outcome β Fault Refusal}
    {e : Fault} (h : Behaves s st r) (hr : r = .fault e) : UnmappedFrom s e := by
  subst hr; exact h

/-- A fetch raises an unmapped address or the unassigned byte at PC (60_exceptions R401, R403). -/
theorem fetch_fault {s : State} {e : Fault} (h : fetch s = .fault e) :
    UnmappedFrom s e ∨
      ∃ op ∈ unassignedBytes, e = .unknownOpcode op s.pc (⟨.read, s.pc, op⟩ :: s.log) := by
  obtain hr | ⟨op, s1, hop, _⟩ := bindValue_eq_fault.1 h
  · exact .inl ((memRead_behaves _ s).unmappedFrom_of_fault hr)
  · cases ht : opcodeTemplate op with
    | none =>
      rw [fetch_of_unassigned hop ht] at h
      exact .inr ⟨op, (opcodeTemplate_eq_none_iff op).1 ht, (Host.Outcome.fault.inj h).symm⟩
    | some t =>
      have hread : Extends s s1 := (memRead_behaves _ s).extends_of_next hop
      have hpc : Extends s1 (s1.setPc (s.pc + 1)) := RegistersOnly.extends ⟨rfl, rfl, rfl, rfl, rfl, rfl⟩
      rw [fetch_of_template hop ht] at h
      exact .inl (((fetchOperand_behaves t _).unmappedFrom_of_fault h).of_extends (hread.trans hpc))

/-- All that a step of a Running core can raise. -/
theorem step_fault {s : State} {e : Fault} (hs : s.status = .running) (h : step s = .fault e) :
    UnmappedFrom s e ∨
      ∃ op ∈ unassignedBytes, e = .unknownOpcode op s.pc (⟨.read, s.pc, op⟩ :: s.log) := by
  rw [step_of_running hs] at h
  obtain h | ⟨i, s1, hf, h⟩ := bindValue_eq_fault.1 h
  · exact fetch_fault h
  · exact .inl (((exec_behaves i s1).unmappedFrom_of_fault h).of_extends (fetch_extends hf))

/-- Settles O11: the two errors a step can raise. -/
theorem stepRaisesOnlyTwoErrors : Obligations.StepRaisesOnlyTwoErrors := by
  intro s e hs h
  obtain ⟨hunmapped, _⟩ | ⟨op, hop, he⟩ := step_fault hs h
  · exact .inl hunmapped
  · exact .inr ⟨op, _, he, hop⟩

/-! ### The state after an error -/

/-- An error's record holds every access of the run, those of the failing step first. -/
theorem step_fault_seen {s : State} {e : Fault} (hs : s.status = .running) (h : step s = .fault e) :
    ∃ made, e.seen = made ++ s.log := by
  obtain ⟨_, hseen⟩ | ⟨op, _, rfl⟩ := step_fault hs h
  · exact hseen
  · exact ⟨[⟨.read, s.pc, op⟩], rfl⟩

theorem step_of_faulted {s : State} {e : Fault} (hs : s.status = .faulted e) : step s = .fault e := by
  simp only [step, hs]

theorem successor_of_faulted {s : State} {e : Fault} (hs : s.status = .faulted e) : successor s = s := by
  simp only [successor, hs]

theorem successor_of_fault {s : State} {e : Fault} (hs : s.status = .running) (h : step s = .fault e) :
    successor s = s.afterFault e := by
  simp only [successor, hs, h]

/-- Settles O9: a Faulted core takes no step; an error leaves what afterFault says. -/
theorem errorIsTerminalAndExact : Obligations.ErrorIsTerminalAndExact := by
  refine ⟨fun s e hs => ⟨step_of_faulted hs, successor_of_faulted hs⟩, fun s e hs h => ?_⟩
  obtain ⟨made, hseen⟩ := step_fault_seen hs h
  obtain ⟨hdraws, hmounts, hparams, hwf, hpeek⟩ := State.afterFault_spec hseen
  rw [successor_of_fault hs h]
  exact ⟨rfl, hmounts, hparams, rfl, made, hseen, hdraws, fun hinv =>
    ⟨hwf hinv.memCanonical, hpeek hinv.mountsDisjoint⟩⟩

/-! ### The round trip of BRK and RTI -/

/-- BRK leaves the pushed PC + 1 and P in the three slots from SP down, and SP below them (60_exceptions R409). -/
theorem exec_brk_stack {s t : State} (hs : s.stackInRam) (h : exec .brk s = .next t) :
    t.sp = s.sp - 3 ∧ t.peek (stackAddr s.sp) = some (hiByte (s.pc + 1)) ∧
      t.peek (stackAddr (s.sp - 1)) = some (loByte (s.pc + 1)) ∧
      t.peek (stackAddr (s.sp - 2)) = some s.flags.pushed := by
  obtain ⟨s1, s2, w, s3, hword, hp, hvector, rfl⟩ := takeBreak_next h
  have hpushed : Pushed 2 s s1 := (ReadsOnly.refl s).pushed.pushWord hword
  have hsp1 : s1.sp = s.sp - 2 := hpushed.sp
  have hsp2 : s2.sp = s.sp - 3 := (hpushed.push hp).sp
  have hreads := readPair_readsOnly hvector
  rw [State.maskOnBreak_eq] at hreads
  have hpeek (n : Byte) : (s3.setPc w).peek (stackAddr n) =
      if n = s.sp - 2 then some s.flags.pushed else s1.peek (stackAddr n) := by
    rw [← hsp1, ← hpushed.stack.flags]
    exact (hreads.peek (stackAddr n)).trans (push_peek (hs.of_stackOnly hpushed.stack) hp n)
  obtain ⟨hhi, hlo⟩ := pushWord_peek hs hword
  have hne : s.sp ≠ s.sp - 2 := by bv_omega
  have hne1 : s.sp - 1 ≠ s.sp - 2 := by bv_omega
  refine ⟨hreads.sp.trans hsp2, ?_, ?_, ?_⟩
  · rw [hpeek, if_neg hne, hhi]
  · rw [hpeek, if_neg hne1, hlo]
  · rw [hpeek, if_pos rfl]

/-- RTI where stores hold P and the two bytes of PC above SP (60_exceptions R411). -/
theorem exec_rti_of_peek {s : State} {v lo hi : Byte} (hv : s.peek (stackAddr (s.sp + 1)) = some v)
    (hlo : s.peek (stackAddr (s.sp + 2)) = some lo) (hhi : s.peek (stackAddr (s.sp + 3)) = some hi) :
    ∃ t, exec .rti s = .next t ∧ t.pc = wordOf hi lo ∧ t.sp = s.sp + 3 ∧ t.flags = Flags.ofByte v ∧ t.a = s.a ∧
      t.x = s.x ∧ t.y = s.y := by
  have hp := pull_of_peek hv
  generalize (s.setSp (s.sp + 1)).record ⟨.read, stackAddr (s.sp + 1), v⟩ = s1 at hp
  have hpeek : (s1.setP v).peek = s.peek := funext (pull_next hp).2.peek
  have hsp1 : (s1.setP v).sp = s.sp + 1 := (pull_next hp).2.sp
  have hsp2 : s.sp + 1 + 1 = s.sp + 2 := BitVec.add_assoc s.sp 1 1
  have hsp3 : s.sp + 2 + 1 = s.sp + 3 := BitVec.add_assoc s.sp 2 1
  obtain ⟨t, hw⟩ : ∃ t, pullWord (s1.setP v) = .next (wordOf hi lo, t) := by
    refine pullWord_of_peek ?_ ?_
    · rw [hpeek, hsp1, hsp2, hlo]
    · rw [hpeek, hsp1, hsp2, hsp3, hhi]
  have hword := pullWord_stackOnly hw
  have hfirst := pull_stackOnly hp
  refine ⟨_, exec_rti_of_pulls hp hw, rfl, ?_, hword.flags, hword.a.trans hfirst.a, hword.x.trans hfirst.x,
    hword.y.trans hfirst.y⟩
  rw [State.setPc_sp, pullWord_sp hw, hsp1, BitVec.add_assoc]; rfl

/-- Settles O44: RTI pulls from the slots BRK wrote; the pushed copy of P gives the flags back. -/
theorem brkThenRtiReturns : Obligations.BrkThenRtiReturns := by
  intro s t pc a x y hs h
  obtain ⟨hsp, hhi, hlo, hp⟩ := exec_brk_stack hs h
  have h1 : t.sp + 1 = s.sp - 2 := by rw [hsp]; bv_omega
  have h2 : t.sp + 2 = s.sp - 1 := by rw [hsp]; bv_omega
  have h3 : t.sp + 3 = s.sp := by rw [hsp]; bv_omega
  obtain ⟨u, hu, hpc, husp, hflags, ha, hx, hy⟩ :=
    exec_rti_of_peek (s := { t with pc := pc, a := a, x := x, y := y }) (h1 ▸ hp) (h2 ▸ hlo) (h3 ▸ hhi)
  rw [Flags.ofByte_pushed] at hflags
  exact ⟨u, hu, hpc.trans (wordOf_hi_lo _), husp.trans h3, hflags, congrArg Flags.toByte hflags, ha, hx, hy⟩

end Sys2Proof.Machine

/-! PROOFS. The statements of 70_reset_and_hazards: the bare first step, the indirect jump's wrap in its page, what
construction builds, and how runs end. -/

namespace Sys2Proof.Machine

/-- Settles O43: the one step is evaluated. -/
theorem firstStepFromResetFaults : Obligations.FirstStepFromResetFaults := rfl

/-! ### The indirect jump -/

theorem readPair_of_memRead {s s1 s2 : State} {lo hi : Addr} {l h : Byte} (hlo : memRead lo s = .next (l, s1))
    (hhi : memRead hi s1 = .next (h, s2)) : readPair lo hi s = .next (wordOf h l, s2) := by
  rw [readPair, hlo, bindValue_next, hhi, bindValue_next]

/-- JMP ($nnnn) goes to the word its two pointer reads give (40 R144, 46 R330). -/
theorem exec_jmpInd_of_readPair {s t : State} {p w : Addr} (h : readPair p (samePageNext p) s = .next (w, t)) :
    exec (.jmpInd p) s = .next (t.setPc w) := by
  change jumpTo (.indirect p) s = _
  rw [jumpTo, resolveAddress, resolve, h, bindValue_next, bindValue_next, placeAddress, bindValue_next]

/-- Settles O37: the second pointer byte lies in the page of the first. -/
theorem indirectJumpWrapsInPage : Obligations.IndirectJumpWrapsInPage := by
  intro s s1 s2 p lo hi h1 h2
  rw [← samePageNext_eq] at h2
  rw [← wordOf_eq_ofNat]
  exact exec_jmpInd_of_readPair (readPair_of_memRead h1 h2)

/-! ### Construction -/

theorem ramMount_wellFormed : ramMount.wellFormed = true := rfl

/-- Mounts that are not empty lie apart exactly where they share no address (20_memory R62). -/
theorem Mount.overlaps_eq_false_iff {m n : Mount} (hm : m.start ≤ m.stop) (hn : n.start ≤ n.stop) :
    m.overlaps n = false ↔ ¬∃ a, m.start ≤ a ∧ a ≤ m.stop ∧ n.start ≤ a ∧ a ≤ n.stop := by
  rw [← Bool.not_eq_true, not_iff_not, Mount.overlaps_comm]
  exact ⟨Mount.shared_of_overlaps hn hm, fun ⟨_, h1, h2, h3, h4⟩ => Mount.overlaps_of_shared h1 h2 h3 h4⟩

theorem State.mountAt_isSome_iff {s : State} {a : Addr} :
    (s.mountAt a).isSome = true ↔ ∃ m ∈ s.mounts, m.start ≤ a.toNat ∧ a.toNat ≤ m.stop := by
  simp only [State.mountAt, List.find?_isSome, Mount.covers_iff]

/-- Before any byte is loaded the default RAM, the first mount, reads zero (10_state R48). -/
theorem Launch.mounted_peek (l : Launch) {a : Addr} (ha : a.toNat ≤ 0x1FFF) : l.mounted.peek a = some 0 := by
  have hram : l.mounted.mountAt a = some ramMount :=
    List.find?_cons_of_pos (Mount.covers_iff.2 ⟨Nat.zero_le _, ha⟩)
  rw [State.peek, State.cellAt_of_mount hram]
  rfl

/-- Construction completes exactly where the mounts are sound and every loaded byte has a mount. -/
theorem construct_completes_iff (l : Launch) :
    (∃ t, construct l = .next t) ↔ (∀ m ∈ l.mounts, m.wellFormed = true) ∧
      (ramMount :: l.mounts).Pairwise (fun m n => m.overlaps n = false) ∧
      ∀ c ∈ l.bytes, (l.mounted.mountAt c.1).isSome = true := by
  rw [← (loadAll_spec l.bytes l.mounted).1]
  constructor
  · rintro ⟨t, ht⟩
    obtain ⟨hwf, hapart, s, hs, _⟩ := construct_eq_next.1 ht
    exact ⟨hwf, hapart, s, hs⟩
  · rintro ⟨hwf, hapart, s, hs⟩
    exact ⟨_, construct_eq_next.2 ⟨hwf, hapart, s, hs, rfl⟩⟩

/-- The mounts of a launch, the default RAM among them, are well-formed where the given ones are. -/
theorem mounts_wellFormed {ms : List Mount} (h : ∀ m ∈ ms, m.wellFormed = true) :
    ∀ m ∈ ramMount :: ms, m.wellFormed = true :=
  List.forall_mem_cons.2 ⟨ramMount_wellFormed, h⟩

theorem pairwise_overlaps_iff {ms : List Mount} (h : ∀ m ∈ ms, m.wellFormed = true) :
    ms.Pairwise (fun m n => m.overlaps n = false) ↔
      ms.Pairwise (fun m n => ¬∃ a, m.start ≤ a ∧ a ≤ m.stop ∧ n.start ≤ a ∧ a ≤ n.stop) :=
  have hle (m : Mount) (hm : m ∈ ms) : m.start ≤ m.stop := (Mount.wellFormed_iff.1 (h m hm)).1
  List.Pairwise.iff_of_mem fun hm hn => Mount.overlaps_eq_false_iff (hle _ hm) (hle _ hn)

/-- A constructed state meets the invariant: nothing is listed before the loading, which keeps the shape of the byte
list. -/
theorem construct_invariant {l : Launch} {t : State} (h : construct l = .next t) : Invariant t := by
  obtain ⟨hwf, hapart, s, hs, rfl⟩ := construct_eq_next.1 h
  obtain ⟨hrest, hshape, _, _⟩ := (loadAll_spec l.bytes l.mounted).2 s hs
  have hmounts : s.mounts = ramMount :: l.mounts := by rw [hrest]; rfl
  obtain ⟨hcanonical, hbacked⟩ := hshape ⟨rfl, List.forall_mem_nil _⟩
  exact {
    memCanonical := hcanonical
    memBacked := hbacked
    mountsWellFormed := hmounts ▸ mounts_wellFormed hwf
    mountsDisjoint := hmounts ▸ hapart
    running := by rw [hrest]; rfl
    drawsCounted := by rw [hrest]; exact Nat.zero_le _ }

/-- Settles O49: loading changes only bytes, and the registers come after it; the conditions of mountAll and loadAll are
those of the statement. -/
theorem constructionBuildsLaunchState : Obligations.ConstructionBuildsLaunchState := by
  refine ⟨fun l t ht => ⟨construct_invariant ht, ?_⟩, fun l => ?_⟩
  · obtain ⟨_, _, s, hs, rfl⟩ := construct_eq_next.1 ht
    obtain ⟨hrest, _, hother, hlast⟩ := (loadAll_spec l.bytes l.mounted).2 s hs
    have hmounts : s.mounts = ramMount :: l.mounts := by rw [hrest]; rfl
    have hparams : s.params = l.params := by rw [hrest]; rfl
    have hlog : s.log = [] := by rw [hrest]; rfl
    have hcell (b : Addr) : s.cellAt b = l.mounted.cellAt b := State.cellAt_congr hmounts hparams b
    refine ⟨rfl, rfl, rfl, rfl, rfl, Flags.toByte_ofByte l.p, hmounts, hparams, hlog, ?_, ?_⟩
    · intro before after a v hbytes ha hafter
      exact hlast before after a v hbytes (hcell a ▸ ha) fun c hc => hcell a ▸ hcell c.1 ▸ hafter c hc
    · intro a ha hnone
      exact (hother a fun c hc => hcell a ▸ hcell c.1 ▸ hnone c hc).trans (l.mounted_peek ha)
  · rw [construct_completes_iff]
    simp only [State.mountAt_isSome_iff]
    constructor
    · rintro ⟨hwf, hapart, hbytes⟩
      exact ⟨fun m hm => Mount.wellFormed_iff.1 (hwf m hm), (pairwise_overlaps_iff (mounts_wellFormed hwf)).1 hapart,
        hbytes⟩
    · rintro ⟨hbounds, hapart, hbytes⟩
      have hwf : ∀ m ∈ l.mounts, m.wellFormed = true := fun m hm => Mount.wellFormed_iff.2 (hbounds m hm)
      exact ⟨hwf, (pairwise_overlaps_iff (mounts_wellFormed hwf)).2 hapart, hbytes⟩

/-! ### Runs -/

/-- A run of n + 1 steps of any machine, by the outcome of its first step. -/
theorem coreRun_succ {M : Host.Core} (n : Nat) (s : M.State) :
    (∀ t, M.step s = .next t → M.run (n + 1) s = M.run n t) ∧
      (∀ e, M.step s = .fault e → M.run (n + 1) s = .fault e) ∧
      ∀ r, M.step s = .refused r → M.run (n + 1) s = .refused r := by
  refine ⟨fun t h => ?_, fun e h => ?_, fun r h => ?_⟩ <;> rw [Host.Core.run, h]

/-- n steps in a row, as the host counts them (Host.Core.run). -/
def runSteps (n : Nat) (s : State) : StepResult := Host.Core.run core n s

theorem runSteps_succ (n : Nat) (s : State) : runSteps (n + 1) s = bindState (step s) (runSteps n) := by
  obtain ⟨hnext, hfault, hrefused⟩ := coreRun_succ (M := core) n s
  cases h : step s with
  | next t => exact hnext t h
  | fault e => exact hfault e h
  | refused r => exact hrefused r h

theorem runSteps_succ_of_next {s t : State} (h : step s = .next t) (n : Nat) :
    runSteps (n + 1) s = runSteps n t := by
  rw [runSteps_succ, h, bindState_next]

theorem runSteps_succ_of_fault {s : State} {e : Fault} (h : step s = .fault e) (n : Nat) :
    runSteps (n + 1) s = .fault e := by
  rw [runSteps_succ, h, bindState_fault]

theorem step_not_refused (s : State) (r : Refusal) : step s ≠ .refused r := stepNeverRefuses.2 s r

/-- Steps that all complete keep the invariant. -/
theorem runSteps_keeps_invariant (n : Nat) {s t : State} (hs : Invariant s) (h : runSteps n s = .next t) :
    Invariant t := by
  induction n generalizing s with
  | zero => exact Host.Outcome.next.inj h ▸ hs
  | succ n ih =>
    obtain ⟨u, hstep, hu⟩ := bindState_eq_next.1 (runSteps_succ n s ▸ h)
    exact ih (stepKeepsInvariant s u hs hstep) hu

/-- The end of a run of n steps with the outcome o. -/
def RunEnd.ofOutcome : StepResult → RunEnd
  | .next t => .completed t
  | .fault e => .failed e
  | .refused r => .refused r

theorem RunEnd.ofOutcome_eq_completed {o : StepResult} {t : State} : ofOutcome o = .completed t ↔ o = .next t := by
  cases o <;> simp [ofOutcome]

theorem RunEnd.ofOutcome_eq_failed {o : StepResult} {e : Fault} : ofOutcome o = .failed e ↔ o = .fault e := by
  cases o <;> simp [ofOutcome]

/-- A step-budget run ends as its steps in a row do (70_reset R461). -/
theorem runBudget_eq_runSteps (n : Nat) {s : State} (hs : Invariant s) :
    runBudget n s = .ofOutcome (runSteps n s) := by
  induction n generalizing s with
  | zero => rw [runBudget, hs.running]; rfl
  | succ n ih =>
    cases hstep : step s with
    | next u => rw [runBudget, hstep, runSteps_succ_of_next hstep]; exact ih (stepKeepsInvariant s u hs hstep)
    | fault e => rw [runBudget, hstep, runSteps_succ_of_fault hstep]; rfl
    | refused r => exact absurd hstep (step_not_refused s r)

/-- PC is not addr at any of the first k step boundaries of the run from s. -/
def PcNotBefore (addr : Addr) (k : Nat) (s : State) : Prop :=
  ∀ j < k, ∀ u : State, runSteps j s = .next u → u.pc ≠ addr

theorem pcNotBefore_zero (addr : Addr) (s : State) : PcNotBefore addr 0 s := fun j hj => absurd hj (Nat.not_lt_zero j)

theorem PcNotBefore.pc_ne {addr : Addr} {k : Nat} {s : State} (h : PcNotBefore addr (k + 1) s) : s.pc ≠ addr :=
  h 0 (Nat.succ_pos k) s rfl

/-- One boundary more: the start's, then those of the run from the next state. -/
theorem pcNotBefore_succ_of_next {addr : Addr} {s t : State} (h : step s = .next t) (k : Nat) :
    PcNotBefore addr (k + 1) s ↔ s.pc ≠ addr ∧ PcNotBefore addr k t := by
  constructor
  · intro hk
    exact ⟨hk.pc_ne, fun j hj u hu => hk (j + 1) (Nat.succ_lt_succ hj) u ((runSteps_succ_of_next h j).trans hu)⟩
  · rintro ⟨hpc, hk⟩ (_ | j) hj u hu
    · exact Host.Outcome.next.inj hu ▸ hpc
    · exact hk j (Nat.lt_of_succ_lt_succ hj) u ((runSteps_succ_of_next h j).symm.trans hu)

/-- The run from s ends within fuel steps in an outcome that P accepts, PC not being addr at any boundary before. -/
def FirstReaches (addr : Addr) (P : StepResult → Prop) (fuel : Nat) (s : State) : Prop :=
  ∃ k ≤ fuel, P (runSteps k s) ∧ PcNotBefore addr k s

section firstReaches
variable {addr : Addr} {P : StepResult → Prop} {s t : State}

theorem firstReaches_zero : FirstReaches addr P 0 s ↔ P (.next s) := by
  constructor
  · rintro ⟨k, hk, h, _⟩
    obtain rfl := Nat.le_zero.1 hk
    exact h
  · exact fun h => ⟨0, Nat.le_refl 0, h, pcNotBefore_zero addr s⟩

/-- Where PC is addr at the start, the run ends there. -/
theorem firstReaches_of_pc (h : s.pc = addr) (fuel : Nat) : FirstReaches addr P fuel s ↔ P (.next s) := by
  constructor
  · rintro ⟨_ | k, _, hP, hk⟩
    · exact hP
    · exact absurd h hk.pc_ne
  · exact fun hP => ⟨0, Nat.zero_le fuel, hP, pcNotBefore_zero addr s⟩

theorem firstReaches_succ_of_next (hpc : s.pc ≠ addr) (hP : ¬P (.next s)) (h : step s = .next t) (fuel : Nat) :
    FirstReaches addr P (fuel + 1) s ↔ FirstReaches addr P fuel t := by
  constructor
  · rintro ⟨_ | k, hk, hPk, hbefore⟩
    · exact absurd hPk hP
    · rw [runSteps_succ_of_next h] at hPk
      exact ⟨k, Nat.le_of_succ_le_succ hk, hPk, ((pcNotBefore_succ_of_next h k).1 hbefore).2⟩
  · rintro ⟨k, hk, hPk, hbefore⟩
    rw [← runSteps_succ_of_next h] at hPk
    exact ⟨k + 1, Nat.succ_le_succ hk, hPk, (pcNotBefore_succ_of_next h k).2 ⟨hpc, hbefore⟩⟩

theorem firstReaches_succ_of_fault {e : Fault} (hpc : s.pc ≠ addr) (hP : ¬P (.next s)) (h : step s = .fault e)
    (fuel : Nat) : FirstReaches addr P (fuel + 1) s ↔ P (.fault e) := by
  constructor
  · rintro ⟨_ | k, _, hPk, _⟩
    · exact absurd hPk hP
    · rwa [runSteps_succ_of_fault h] at hPk
  · intro hPe
    refine ⟨1, Nat.succ_pos fuel, by rwa [runSteps_succ_of_fault h], fun j hj u hu => ?_⟩
    obtain rfl := Nat.lt_one_iff.1 hj
    exact Host.Outcome.next.inj hu ▸ hpc

end firstReaches

/-- The outcomes of steps in a row that end a StopAt run as r. -/
def RunEnd.StopsWith (addr : Addr) : RunEnd → StepResult → Prop
  | .completed t, o => o = .next t ∧ t.pc = addr
  | .failed e, o => o = .fault e
  | .unfinished _, _ | .refused _, _ => False

theorem RunEnd.stopsWith_next_iff {addr : Addr} {r : RunEnd} {s : State} :
    r.StopsWith addr (.next s) ↔ .completed s = r ∧ s.pc = addr := by
  cases r with
  | completed t =>
    refine ⟨fun ⟨h, hpc⟩ => ?_, fun ⟨h, hpc⟩ => ?_⟩
    · obtain rfl := Host.Outcome.next.inj h
      exact ⟨rfl, hpc⟩
    · obtain rfl := RunEnd.completed.inj h
      exact ⟨rfl, hpc⟩
  | failed | unfinished | refused => simp [StopsWith]

theorem RunEnd.stopsWith_fault_iff {addr : Addr} {r : RunEnd} {e : Fault} :
    r.StopsWith addr (.fault e) ↔ .failed e = r := by
  cases r <;> simp [StopsWith, eq_comm]

/-- A StopAt run ends at the first boundary where PC is addr, or at the first error before it (70_reset R461). -/
theorem runStopAt_eq_iff {addr : Addr} {r : RunEnd} (hr : ∀ u, r ≠ .unfinished u) (fuel : Nat) {s : State}
    (hs : Invariant s) : runStopAt addr fuel s = r ↔ FirstReaches addr (r.StopsWith addr) fuel s := by
  have hgo {u : State} (hpc : u.pc ≠ addr) : ¬r.StopsWith addr (.next u) := fun h =>
    hpc (RunEnd.stopsWith_next_iff.1 h).2
  induction fuel generalizing s with
  | zero =>
    rw [firstReaches_zero, runStopAt, hs.running]
    by_cases hpc : s.pc = addr
    · simp only [RunEnd.stopsWith_next_iff, hpc, if_true, and_true]
    · simp only [hpc, if_false]
      exact iff_of_false (Ne.symm (hr s)) (hgo hpc)
  | succ n ih =>
    rw [runStopAt, hs.running]
    by_cases hpc : s.pc = addr
    · simp only [firstReaches_of_pc hpc, RunEnd.stopsWith_next_iff, hpc, if_true, and_true]
    · simp only [hpc, if_false]
      cases hstep : step s with
      | next u =>
        rw [firstReaches_succ_of_next hpc (hgo hpc) hstep]
        exact ih (stepKeepsInvariant s u hs hstep)
      | fault e =>
        rw [firstReaches_succ_of_fault hpc (hgo hpc) hstep]
        exact RunEnd.stopsWith_fault_iff.symm
      | refused r => exact absurd hstep (step_not_refused s r)

/-- Settles O60: both kinds of run by their steps in a row, which keep the core Running while they complete. -/
theorem runsEndAsLaunched : Obligations.RunsEndAsLaunched := by
  intro s t n fuel addr e hs
  have hbudget : runBudget n s = .completed t ↔ runSteps n s = .next t := by
    rw [runBudget_eq_runSteps n hs, RunEnd.ofOutcome_eq_completed]
  have hbudgetFails : runBudget n s = .failed e ↔ runSteps n s = .fault e := by
    rw [runBudget_eq_runSteps n hs, RunEnd.ofOutcome_eq_failed]
  have hstop : runStopAt addr fuel s = .completed t ↔
      ∃ k ≤ fuel, runSteps k s = .next t ∧ t.pc = addr ∧ PcNotBefore addr k s := by
    rw [runStopAt_eq_iff (by simp) fuel hs]
    simp only [FirstReaches, RunEnd.StopsWith, and_assoc]
  have hstopFails : runStopAt addr fuel s = .failed e ↔
      ∃ k ≤ fuel, runSteps k s = .fault e ∧ PcNotBefore addr k s :=
    runStopAt_eq_iff (by simp) fuel hs
  refine ⟨hbudget, hbudgetFails, hstop, hstopFails, ?_⟩
  rintro (h | h)
  · exact (runSteps_keeps_invariant n hs (hbudget.1 h)).running
  · obtain ⟨k, _, hk, _⟩ := hstop.1 h
    exact (runSteps_keeps_invariant k hs hk).running

end Sys2Proof.Machine
